-- ==== Sys2Proof/Word.lean ====
section
/-! DEFINITION. The word types of the GF1 voice engine: `00_scope.md` R10 names `u7`, `u8`, `u16`,
`u20`, `u32` and `s32`. A word is a bit vector; a signed reading is taken with `BitVec.toInt`. -/

namespace Sys2Proof

/-- `u8`: a byte of sample RAM, an 8-bit port datum, an 8-bit register. -/
abbrev Byte := BitVec 8

/-- `u16`: `register_data`, `dma_addr`, the value of a register read. -/
abbrev Half := BitVec 16

/-- `u32`: the pending bitmasks and the active-voice mask. -/
abbrev Word := BitVec 32

/-- `u20`: an offset into the 1 MB sample RAM. -/
abbrev RamAddr := BitVec 20

/-- `u7`: the flag set of a control track (`10_state.md` R22). -/
abbrev TrackFlags := BitVec 7

/-- `s32`: a control-track field. Its 32-bit two's-complement pattern is held as the two halves that the
wave address registers write and read separately (`44_voice_registers.md` R226, R234, R235). -/
structure S32 where
  /-- Bits 31:16. -/
  hi : Half
  /-- Bits 15:0. -/
  lo : Half
deriving DecidableEq, Repr, Inhabited

/-! ### Real numbers

The spec's real numbers (`00_scope.md` R14), exactly, as plain data (log 15). -/

/-- The sum of `q * cos (k π / 224)` over its terms `(k, q)`. Every entry of the pan table is such a cosine
(`43_voice_render.md` R191, R192). -/
structure CosSum where
  terms : List (Nat × Rat)
deriving DecidableEq, Repr, Inhabited

/-- A real number of which the spec gives the range only. -/
inductive OpenReal where
  | volStepRatio (n : Nat)   -- an `r` above 1 (`42_volume.md` R176)
  | limitRelease (n : Nat)   -- a positive `LIMIT_RELEASE` (`47_output_limiter.md` R344)
  | sample (n : Nat)         -- draw number `n` within `[-32768, 32767]` (`41_sample_fetch.md` R155)
deriving DecidableEq, Repr

/-- A product of powers of open numbers. -/
abbrev Monomial := List (OpenReal × Int)

/-- A real number that a rule of state can produce: a sum of cosines, and multiples of products of open
numbers by such sums. -/
structure Exact where
  known : CosSum
  unknown : List (Monomial × CosSum)
deriving DecidableEq, Repr, Inhabited

end Sys2Proof
end

