-- ==== Sys2Proof/Machine/CosSum.lean ====
section
/-! DEFINITION. Sums of cosines of multiples of `π / 224` with rational coefficients: addition, products and
the sign, no step of which rounds (`00_scope.md` R14, log 15). The sign is found between rational bounds that
are narrowed until they exclude 0; `Laws/CosSum.lean` proves that it is that of the real number meant. -/

namespace Sys2Proof

/-- The real number. -/
noncomputable def CosSum.toReal (x : CosSum) : ℝ :=
  (x.terms.map fun t => (t.2 : ℝ) * Real.cos (t.1 * (Real.pi / 224))).sum

/-- A term `(k, q)` added to terms of rising `k`, none of them 0. -/
def insertTerm (k : Nat) (q : Rat) : List (Nat × Rat) → List (Nat × Rat)
  | [] => if q = 0 then [] else [(k, q)]
  | (j, r) :: ts =>
    if k < j then (if q = 0 then (j, r) :: ts else (k, q) :: (j, r) :: ts)
    else if k = j then (if r + q = 0 then ts else (j, r + q) :: ts)
    else (j, r) :: insertTerm k q ts

def CosSum.zero : CosSum := ⟨[]⟩

def CosSum.ofRat (q : Rat) : CosSum := ⟨insertTerm 0 q []⟩

/-- `cos (k π / 224)` for `k` from 0 to 112, a quarter of a turn. -/
def CosSum.cosine (k : Nat) : CosSum := if k < 112 then ⟨[(k, 1)]⟩ else .zero

def CosSum.add (x y : CosSum) : CosSum :=
  ⟨x.terms.foldr (fun t ts => insertTerm t.1 t.2 ts) y.terms⟩

def CosSum.scale (q : Rat) (x : CosSum) : CosSum :=
  if q = 0 then .zero else ⟨x.terms.map fun t => (t.1, q * t.2)⟩

/-- The product of two terms, `2 cos a cos b = cos (a + b) + cos (a - b)`, added to terms. -/
def insertProduct (s t : Nat × Rat) (ts : List (Nat × Rat)) : List (Nat × Rat) :=
  insertTerm (s.1 + t.1) (s.2 * t.2 / 2) (insertTerm (s.1 - t.1 + (t.1 - s.1)) (s.2 * t.2 / 2) ts)

def CosSum.mul (x y : CosSum) : CosSum :=
  ⟨x.terms.foldr (fun s ts => y.terms.foldr (insertProduct s) ts) []⟩

/-! ### The sign -/

/-- `d ^ k * cos (k φ)` and its successor, where `cos φ = m / d`: the Chebyshev recurrence. -/
def chebyshev (m d : Int) : Nat → Int × Int
  | 0 => (1, m)
  | k + 1 => let p := chebyshev m d k
    (p.2, 2 * m * p.2 - d * d * p.1)

/-- `cos (π / 224) * 2 ^ (64 + j)`, cut off: of the next two candidates the greater one is at most the
cosine exactly where `cos (112 φ)` is not positive. -/
def cosineBits : Nat → Nat
  | 0 => 18444929868888332428
  | j + 1 =>
    let m := 2 * cosineBits j + 1
    if (chebyshev m (2 ^ (64 + (j + 1)) : Nat) 112).1 ≤ 0 then m else m - 1

/-- A value of the number, with `m / d` in the place of `cos (π / 224)`. -/
def CosSum.approx (x : CosSum) (m d : Nat) : Rat :=
  (x.terms.map fun t => t.2 * mkRat (chebyshev m d t.1).1 (d ^ t.1)).sum

/-- How far `approx` can be off, if `m / d` is off by at most `1 / d`. -/
def CosSum.error (x : CosSum) (d : Nat) : Rat :=
  (x.terms.map fun t => |t.2| * ((t.1 ^ 2 : Nat) : Rat)).sum / d

/-- The sign, from bounds of `64 + j` bits and up to `fuel - 1` doublings of that. -/
def CosSum.signFrom (x : CosSum) : (fuel j : Nat) → SignType
  | 0, _ => 0
  | fuel + 1, j =>
    let a := x.approx (cosineBits j) (2 ^ (64 + j))
    let e := x.error (2 ^ (64 + j))
    if e < a then 1 else if a < -e then -1 else x.signFrom fuel (2 * j + 64)

/-- A common multiple of the denominators. -/
def CosSum.commonDen (x : CosSum) : Nat := (x.terms.map fun t => t.2.den).prod

/-- A bound on the coefficients, by which a number that is not 0 is not too small. -/
def CosSum.height (x : CosSum) : Nat :=
  2 * x.commonDen * (x.terms.map fun t => t.2.num.natAbs * (t.1 + 1) ^ 2).sum

/-- The sign of the number (`CosSum.sign_eq` of `Laws/CosSum.lean`). -/
def CosSum.sign (x : CosSum) : SignType :=
  match x.terms with
  | [] => 0
  | [(0, q)] => if 0 < q then 1 else if q < 0 then -1 else 0
  | _ => x.signFrom (Nat.log2 (Nat.log2 x.height) + 5) 0

end Sys2Proof
end

