-- ==== Sys2Proof/Machine/Exact.lean ====
section
/-! DEFINITION. The exact real numbers of `00_scope.md` R14: sums and products. A number is kept as a sum of
cosines beside multiples of the open numbers of the spec, so that no rule rounds under exact numerics
(log 15). The order of the numbers is in `Machine/Order.lean`. -/

namespace Sys2Proof

/-- The value of a product of open numbers, for values of these. -/
def Monomial.value {K : Type} [DivisionRing K] (v : OpenReal → K) (m : Monomial) : K :=
  (m.map fun f => v f.1 ^ f.2).prod

/-- The real number, for values of the open numbers. -/
noncomputable def Exact.value (v : OpenReal → ℝ) (x : Exact) : ℝ :=
  x.known.toReal + (x.unknown.map fun t => t.2.toReal * t.1.value v).sum

def Exact.zero : Exact := ⟨.zero, []⟩

def Exact.ofRat (q : Rat) : Exact := ⟨.ofRat q, []⟩

/-- `cos (k π / 224)` for `k` from 0 to 112. -/
def Exact.cosine (k : Nat) : Exact := ⟨.cosine k, []⟩

/-- A power of an open number. -/
def Exact.power (u : OpenReal) (e : Int) : Exact := ⟨.zero, [([(u, e)], .ofRat 1)]⟩

/-- A multiple of a product of open numbers added to others, none of them 0. -/
def insertMultiple (m : Monomial) (c : CosSum) : List (Monomial × CosSum) → List (Monomial × CosSum)
  | [] => if c = .zero then [] else [(m, c)]
  | (n, d) :: ts =>
    if m = n then (if d.add c = .zero then ts else (n, d.add c) :: ts)
    else (n, d) :: insertMultiple m c ts

/-- A multiple of a product of open numbers added to a number. -/
def Exact.addMultiple (m : Monomial) (c : CosSum) (x : Exact) : Exact :=
  if m = [] then { x with known := x.known.add c } else { x with unknown := insertMultiple m c x.unknown }

/-- A number as multiples of products, its sum of cosines that of the empty product. -/
def Exact.multiples (x : Exact) : List (Monomial × CosSum) := ([], x.known) :: x.unknown

def Exact.add (x y : Exact) : Exact := x.multiples.foldr (fun t z => z.addMultiple t.1 t.2) y

def Exact.scale (q : Rat) (x : Exact) : Exact :=
  if q = 0 then .zero else ⟨x.known.scale q, x.unknown.map fun t => (t.1, t.2.scale q)⟩

def Exact.neg (x : Exact) : Exact := x.scale (-1)

def Exact.sub (x y : Exact) : Exact := x.add y.neg

def Exact.mul (x y : Exact) : Exact :=
  x.multiples.foldr (fun s z => y.multiples.foldr (fun t z => z.addMultiple (s.1 ++ t.1) (s.2.mul t.2)) z) .zero

/-- The number with 2 in the place of every open number. -/
def Exact.atTwo (x : Exact) : CosSum :=
  ⟨x.known.terms ++ x.unknown.flatMap fun t => t.2.terms.map fun s => (s.1, s.2 * t.1.value fun _ => 2)⟩

theorem Exact.toReal_atTwo (x : Exact) : x.atTwo.toReal = x.value fun _ => 2 := by
  rw [atTwo, CosSum.toReal, List.map_append, List.sum_append]
  unfold value
  congr 1
  induction x.unknown with
  | nil => rfl
  | cons t ts ih =>
    have hc : ((t.1.value fun _ => (2 : Rat) : Rat) : ℝ) = t.1.value fun _ => (2 : ℝ) := by
      unfold Monomial.value
      induction t.1 with
      | nil => simp
      | cons f fs ih => simp [ih]
    simp only [List.flatMap_cons, List.map_append, List.sum_append, ih, List.map_cons, List.sum_cons]
    congr 1
    rw [CosSum.toReal, ← List.sum_map_mul_right, List.map_map]
    congr 1
    refine List.map_congr_left fun s _ => ?_
    simp [hc, mul_right_comm]

end Sys2Proof
end

