-- ==== Sys2Proof/Config.lean ====
section
/-! DEFINITION. What an implementation fixes (`00_scope.md` R7, `92_eei_decisions.md` section 1) and the
free values of the spec (`93_implementation_defined.md` part 1, treatment "any value").

The parameters are plain data, a `Params`, held beside the machine's state: a statement about every
state is then a statement about every configuration, as `92_eei_decisions.md` asks of an OPEN
parameter. The free values are opaque constants: nothing can be proved of them. -/

namespace Sys2Proof

/-- `DRAM_REG_ORDER` (`30_encoding.md` R114, D39): which of registers `0x43`, `0x44` holds the high part. -/
inductive DramRegOrder where
  | msbFirst   -- `0x43` high part, `0x44` low part: DOC00's literal order
  | lswFirst   -- `0x43` low part, `0x44` high part
deriving DecidableEq, Repr

/-- `PAN_WRITE_MODE` (`44_voice_registers.md` R223, D13): what a pan write above 15 does. -/
inductive PanWriteMode where
  | saturate
  | low4
deriving DecidableEq, Repr

/-- `NUM` (`00_scope.md` R14, D16): how real-valued results are rounded. `exact` takes every rule
literally; `implementation` rounds each result by the uninterpreted `Config.numRound` or
`Config.numFactor` and narrows by `Config.numNarrow`, of which nothing is known (log 14, log 17). -/
inductive Numerics where
  | exact
  | implementation
deriving DecidableEq, Repr

/-- The places where a rule produces a real number that `NUM` may round (`00_scope.md` R14). -/
inductive NumSite where
  | volEntry (i : Nat)     -- a stored entry of `VOL` (`42_volume.md` R177)
  | panLeft (p : Nat)      -- a stored left entry of `PAN` (`43_voice_render.md` R192)
  | panRight (p : Nat)     -- a stored right entry of `PAN`
  | interp                 -- the interpolated sample (`41_sample_fetch.md` R154)
  | gain                   -- sample times volume scalar (`43_voice_render.md` R194)
  | pan                    -- that times a pan scalar
  | accumulate             -- the sum into `ACC`
  | limitScale             -- `ACC` times the factor (`47_output_limiter.md` R342)
  | release                -- the decayed peak
deriving DecidableEq, Repr

/-- A real parameter (`92_eei_decisions.md` section 1): a rational, with which a run can be computed, or a
number of which nothing is known but its range, whichever real that is (log 16). -/
inductive RealParam where
  | rational (q : Rat)
  | unknown (n : Nat)
deriving DecidableEq, Repr

/-- The parameters a model takes (`00_scope.md` R7). The delay parameters, which no rule of state
depends on (R9), are left out (log 26). -/
structure Params where
  /-- `PORT_BASE`: offset `0x200` of the port map is this port (`30_encoding.md` R91). -/
  portBase : Nat
  /-- `DMA_CHANNEL`: the host DMA channel at power-on. -/
  dmaChannel : Fin 8
  /-- `IRQ_NUMBER`: the host interrupt line at power-on. -/
  irqNumber : Fin 16
  /-- `ADDR16_LOWER_BITS`, L of `20_memory.md` R70. -/
  addr16LowerBits : Nat
  /-- `ADDR16_UPPER_MASK`, U of `20_memory.md` R70. -/
  addr16UpperMask : RamAddr
  dramRegOrder : DramRegOrder
  /-- `VOL_STEP_RATIO`, r of `42_volume.md` R176, a real above 1. -/
  volStepRatio : RealParam
  numerics : Numerics
  panWriteMode : PanWriteMode
  /-- `LIMIT_RELEASE` of `47_output_limiter.md` R344, a positive real. -/
  limitRelease : RealParam
deriving DecidableEq, Repr

/-- The number that a parameter stands for. -/
def RealParam.number (u : Nat → OpenReal) : RealParam → Exact
  | .rational q => .ofRat q
  | .unknown n => .power (u n) 1

/-- That number to the power of `-k`. -/
def RealParam.inversePower (u : Nat → OpenReal) (k : Nat) : RealParam → Exact
  | .rational q => .ofRat (mkRat (q.den ^ k) (q.num.toNat ^ k))
  | .unknown n => .power (u n) (-k)

/-! ### The open real numbers -/

/-- The range of an open number. -/
def OpenReal.inRange (x : ℝ) : OpenReal → Prop
  | .volStepRatio _ => 1 < x
  | .limitRelease _ => 0 < x
  | .sample _ => -32768 ≤ x ∧ x ≤ 32767

/-- An order of the numbers, which is the one that some values of the open numbers within their ranges
give. (That the computed sign of a sum of cosines is right is a premise here and a theorem,
`CosSum.sign_eq`. The default says that there is such an order, and nothing else rests on it.) -/
structure OpenOrder where
  /-- The sign of a number. -/
  sign : Exact → SignType := fun x => x.atTwo.sign
  isOrder : (∀ c : CosSum, c.sign = SignType.sign c.toReal) →
      ∃ v : OpenReal → ℝ, (∀ u : OpenReal, u.inRange (v u)) ∧
        ∀ x : Exact, sign x = SignType.sign (x.value v) := by
    exact fun h => ⟨fun _ => 2, fun u => by cases u <;> norm_num [OpenReal.inRange],
      fun x => by rw [h, x.toReal_atTwo]⟩
deriving Inhabited

namespace Config

/-! ### Fixed values of `00_scope.md` R7 -/

/-- `RAM_SIZE`. -/
def ramSize : Nat := 0x100000

/-- `MIN_ACTIVE`. -/
def minActive : Nat := 14

/-- `MAX_ACTIVE`, which is also `NUM_VOICES`. -/
def maxActive : Nat := 32

/-- `FULL_SCALE` (`47_output_limiter.md` R341). -/
def fullScale : Nat := 32767

/-- `PEAK_SEED` (`47_output_limiter.md` R341). -/
def peakSeed : Rat := 1

/-! ### Named configurations -/

/-- The default configuration of `95_test_vectors.md` (its "Conventions"), which its programs start
from. The vectors name no port base: offsets are as if the base were `0x200` (D4). `LIMIT_RELEASE` is
the 100 that file uses for illustration. DESIGN CHOICE, unsafe for claims about runs from reset (log 5). -/
def defaultParams : Params :=
  { portBase := 0x200
    dmaChannel := 1
    irqNumber := 5
    addr16LowerBits := 13
    addr16UpperMask := 0xFC000#20
    dramRegOrder := .lswFirst
    volStepRatio := .rational (mkRat 1002709201 1000000000)
    numerics := .exact
    panWriteMode := .saturate
    limitRelease := .rational 100 }

/-! ### Free values -/

/-- What the byte of sample RAM at an address holds at power-on (`10_state.md` R46, U4): any value
(log 6). -/
opaque ramPowerOn : Nat → Byte

/-- `wave.pos` of voice `v` after the prepare that takes draw number `n` (`70_reset_and_hazards.md`
R403, U5): any value (log 8). -/
opaque drawWavePos : (n v : Nat) → S32

/-- `adlib_command` after the prepare that takes draw number `n` (`70_reset_and_hazards.md` R403, U6):
any value (log 9). -/
opaque drawAdlib : (n : Nat) → Byte

/-- The values of the open numbers, through the order of the numbers that they give: any reals in their
ranges. They are the samples at a negative wave position (`41_sample_fetch.md` R155, U2; log 10) and the
parameters that are not rational (log 16). -/
opaque openOrder : OpenOrder

/-- What a 16-bit read of an offset that is not in the port map delivers: `45_global_registers.md` R276
gives the 8-bit value only (log 11). -/
opaque drawOpenBus : (n : Nat) → Half

/-- The rounding of `NUM`: the number an implementation computes at a site where the rule's exact result is
the argument (`00_scope.md` R14, U18; log 14). -/
opaque numRound : NumSite → Exact → Rat

/-- The number an implementation computes for `FULL_SCALE / peak` (`47_output_limiter.md` R342; log 14). -/
opaque numFactor : (peak : Exact) → Rat

/-- The float to 16-bit narrowing of an implementation, before it is put within full scale
(`47_output_limiter.md` R343, U18; log 17). -/
opaque numNarrow : Exact → Int

end Config

end Sys2Proof
end

