-- ==== Sys2Proof/Syntax.lean ====
section
/-! DEFINITION. The commands of the block: one constructor of `Instr` per row of
`spec/opcode_table.json`, in the table's order, and the bus transaction of `30_encoding.md` R92 by its
four components.

An operand is kept whole: a port write carries the 16 `value` bits of its `BTW` word, a register write
command the 16 `data` bits of its `REGW` word, whichever of them its rule reads (log 24). -/

namespace Sys2Proof

/-- A host command (`30_encoding.md` R92, R96). -/
inductive Instr where
  -- Port accesses, format `BTW`: `OUTB`/`OUTW` write, `INB`/`INW` read.
  /-- `OUTB_MIX_CTRL`, `0x82000000`: `45_global_registers.md` R261. -/
  | outbMixCtrl (val : Half)
  /-- `INB_IRQ_STATUS`, `0x02060000`: `45_global_registers.md` R262. -/
  | inbIrqStatus
  /-- `INB_TIMER_STATUS`, `0x02080000`: `45_global_registers.md` R263. -/
  | inbTimerStatus
  /-- `OUTB_ADLIB_CMD`, `0x82080000`: `45_global_registers.md` R263. -/
  | outbAdlibCmd (val : Half)
  /-- `OUTB_TIMER_CMD`, `0x82090000`: `60_exceptions.md` R372. -/
  | outbTimerCmd (val : Half)
  /-- `INB_ADLIB_CMD_RB`, `0x020A0000`: `45_global_registers.md` R265. -/
  | inbAdlibCmdRb
  /-- `OUTB_CHAN_SELECT`, `0x820B0000`: `45_global_registers.md` R264. -/
  | outbChanSelect (val : Half)
  /-- `OUTB_VOICE_INDEX`, `0x83020000`: `45_global_registers.md` R266. -/
  | outbVoiceIndex (val : Half)
  /-- `INB_VOICE_INDEX`, `0x03020000`: `45_global_registers.md` R267. -/
  | inbVoiceIndex
  /-- `OUTB_REG_SELECT`, `0x83030000`: `45_global_registers.md` R268. -/
  | outbRegSelect (val : Half)
  /-- `INB_REG_SELECT`, `0x03030000`: `45_global_registers.md` R269. -/
  | inbRegSelect
  /-- `OUTB_REG_DATA_LO`, `0x83040000`: `45_global_registers.md` R272. -/
  | outbRegDataLo (val : Half)
  /-- `OUTW_REG_DATA`, `0xC3040000`: `45_global_registers.md` R273. -/
  | outwRegData (val : Half)
  /-- `OUTB_REG_DATA_HI`, `0x83050000`: `45_global_registers.md` R274. -/
  | outbRegDataHi (val : Half)
  /-- `INB_REG_DATA_LO`, `0x03040000`: `45_global_registers.md` R275. -/
  | inbRegDataLo
  /-- `INW_REG_DATA`, `0x43040000`: `45_global_registers.md` R275. -/
  | inwRegData
  /-- `INB_REG_DATA_HI`, `0x03050000`: `45_global_registers.md` R275. -/
  | inbRegDataHi
  /-- `INB_DRAM_DATA`, `0x03070000`: `45_global_registers.md` R270. -/
  | inbDramData
  /-- `OUTB_DRAM_DATA`, `0x83070000`: `45_global_registers.md` R271. -/
  | outbDramData (val : Half)
  -- Register write commands, format `REGW`.
  /-- `WAVE_CTRL`, `0x000000`: `44_voice_registers.md` R225. -/
  | waveCtrl (data : Half)
  /-- `WAVE_RATE`, `0x010000`: `44_voice_registers.md` R212. -/
  | waveRate (data : Half)
  /-- `WAVE_START_MSW`, `0x020000`: `44_voice_registers.md` R213. -/
  | waveStartMsw (data : Half)
  /-- `WAVE_START_LSW`, `0x030000`: `44_voice_registers.md` R214. -/
  | waveStartLsw (data : Half)
  /-- `WAVE_END_MSW`, `0x040000`: `44_voice_registers.md` R215. -/
  | waveEndMsw (data : Half)
  /-- `WAVE_END_LSW`, `0x050000`: `44_voice_registers.md` R216. -/
  | waveEndLsw (data : Half)
  /-- `VOL_RATE`, `0x060000`: `44_voice_registers.md` R217. -/
  | volRate (data : Half)
  /-- `VOL_START`, `0x070000`: `44_voice_registers.md` R218. -/
  | volStart (data : Half)
  /-- `VOL_END`, `0x080000`: `44_voice_registers.md` R219. -/
  | volEnd (data : Half)
  /-- `VOL_CURRENT`, `0x090000`: `44_voice_registers.md` R220. -/
  | volCurrent (data : Half)
  /-- `WAVE_POS_MSW`, `0x0A0000`: `44_voice_registers.md` R221. -/
  | wavePosMsw (data : Half)
  /-- `WAVE_POS_LSW`, `0x0B0000`: `44_voice_registers.md` R222. -/
  | wavePosLsw (data : Half)
  /-- `PAN`, `0x0C0000`: `44_voice_registers.md` R223. -/
  | pan (data : Half)
  /-- `VOL_CTRL`, `0x0D0000`: `44_voice_registers.md` R224. -/
  | volCtrl (data : Half)
  /-- `ACTIVE_VOICES`, `0x0E0000`: `45_global_registers.md` R280. -/
  | activeVoices (data : Half)
  /-- `DMA_CTRL`, `0x410000`: `45_global_registers.md` R281. -/
  | dmaCtrl (data : Half)
  /-- `DMA_ADDR`, `0x420000`: `45_global_registers.md` R282. -/
  | dmaAddr (data : Half)
  /-- `DRAM_ADDR_A`, `0x430000`: `45_global_registers.md` R284. -/
  | dramAddrA (data : Half)
  /-- `DRAM_ADDR_B`, `0x440000`: `45_global_registers.md` R285. -/
  | dramAddrB (data : Half)
  /-- `TIMER_CTRL`, `0x450000`: `60_exceptions.md` R373. -/
  | timerCtrl (data : Half)
  /-- `TIMER1_VALUE`, `0x460000`: `60_exceptions.md` R373. -/
  | timer1Value (data : Half)
  /-- `TIMER2_VALUE`, `0x470000`: `60_exceptions.md` R373. -/
  | timer2Value (data : Half)
  /-- `SAMPLE_CTRL`, `0x490000`: `45_global_registers.md` R287. -/
  | sampleCtrl (data : Half)
  /-- `RUNTIME_CTRL`, `0x4C0000`: `45_global_registers.md` R289. -/
  | runtimeCtrl (data : Half)
  -- Register read commands, format `REGR`.
  /-- `RD_DMA_CTRL`, `0x41`: `45_global_registers.md` R283. -/
  | rdDmaCtrl
  /-- `RD_DMA_ADDR`, `0x42`: `45_global_registers.md` R288. -/
  | rdDmaAddr
  /-- `RD_TIMER_CTRL`, `0x45`: `45_global_registers.md` R288. -/
  | rdTimerCtrl
  /-- `RD_SAMPLE_CTRL`, `0x49`: `45_global_registers.md` R288. -/
  | rdSampleCtrl
  /-- `RD_WAVE_CTRL`, `0x80`: `44_voice_registers.md` R232. -/
  | rdWaveCtrl
  /-- `RD_WAVE_RATE`, `0x81`: `44_voice_registers.md` R233. -/
  | rdWaveRate
  /-- `RD_WAVE_START_MSW`, `0x82`: `44_voice_registers.md` R234. -/
  | rdWaveStartMsw
  /-- `RD_WAVE_START_LSW`, `0x83`: `44_voice_registers.md` R235. -/
  | rdWaveStartLsw
  /-- `RD_WAVE_END_MSW`, `0x84`: `44_voice_registers.md` R236. -/
  | rdWaveEndMsw
  /-- `RD_WAVE_END_LSW`, `0x85`: `44_voice_registers.md` R237. -/
  | rdWaveEndLsw
  /-- `RD_VOL_RATE`, `0x86`: `44_voice_registers.md` R238. -/
  | rdVolRate
  /-- `RD_VOL_START`, `0x87`: `44_voice_registers.md` R239. -/
  | rdVolStart
  /-- `RD_VOL_END`, `0x88`: `44_voice_registers.md` R240. -/
  | rdVolEnd
  /-- `RD_VOL_CURRENT`, `0x89`: `44_voice_registers.md` R241. -/
  | rdVolCurrent
  /-- `RD_WAVE_POS_MSW`, `0x8A`: `44_voice_registers.md` R242. -/
  | rdWavePosMsw
  /-- `RD_WAVE_POS_LSW`, `0x8B`: `44_voice_registers.md` R243. -/
  | rdWavePosLsw
  /-- `RD_PAN`, `0x8C`: `44_voice_registers.md` R244. -/
  | rdPan
  /-- `RD_VOL_CTRL`, `0x8D`: `44_voice_registers.md` R245. -/
  | rdVolCtrl
  /-- `RD_VOICE_IRQ`, `0x8F`: `45_global_registers.md` R292. -/
  | rdVoiceIrq
deriving DecidableEq, Repr

/-- A bus transaction by its components (`30_encoding.md` R92), addressed by the host's port number. -/
structure Transaction where
  /-- `dir`: a write if true, a read if false. -/
  write : Bool
  /-- `width`: 16 bits if true, 8 if false. -/
  wide : Bool
  /-- The host's port number; the offset of the port map follows by R91. -/
  port : Nat
  /-- The data written; reads carry none. -/
  value : Half
deriving DecidableEq, Repr

end Sys2Proof
end

