-- ==== Sys2Proof/WellFormed.lean ====
section
/-! DEFINITION. Which commands, transactions and configurations are well formed. `30_encoding.md` R92:
"data written; bits 15:8 are 0 in an 8-bit write; 0 in a read". -/

namespace Sys2Proof

/-- `30_encoding.md` R92: bits 15:8 of the value of an 8-bit write are 0. -/
def fitsByte (v : Half) : Bool := decide (v.toNat < 256)

/-- A command that some command word stands for: an 8-bit port write carries 8 bits. -/
def Instr.wellFormed : Instr → Bool
  | .outbMixCtrl v => fitsByte v
  | .inbIrqStatus => true
  | .inbTimerStatus => true
  | .outbAdlibCmd v => fitsByte v
  | .outbTimerCmd v => fitsByte v
  | .inbAdlibCmdRb => true
  | .outbChanSelect v => fitsByte v
  | .outbVoiceIndex v => fitsByte v
  | .inbVoiceIndex => true
  | .outbRegSelect v => fitsByte v
  | .inbRegSelect => true
  | .outbRegDataLo v => fitsByte v
  | .outwRegData _ => true
  | .outbRegDataHi v => fitsByte v
  | .inbRegDataLo => true
  | .inwRegData => true
  | .inbRegDataHi => true
  | .inbDramData => true
  | .outbDramData v => fitsByte v
  | .waveCtrl _ => true
  | .waveRate _ => true
  | .waveStartMsw _ => true
  | .waveStartLsw _ => true
  | .waveEndMsw _ => true
  | .waveEndLsw _ => true
  | .volRate _ => true
  | .volStart _ => true
  | .volEnd _ => true
  | .volCurrent _ => true
  | .wavePosMsw _ => true
  | .wavePosLsw _ => true
  | .pan _ => true
  | .volCtrl _ => true
  | .activeVoices _ => true
  | .dmaCtrl _ => true
  | .dmaAddr _ => true
  | .dramAddrA _ => true
  | .dramAddrB _ => true
  | .timerCtrl _ => true
  | .timer1Value _ => true
  | .timer2Value _ => true
  | .sampleCtrl _ => true
  | .runtimeCtrl _ => true
  | .rdDmaCtrl => true
  | .rdDmaAddr => true
  | .rdTimerCtrl => true
  | .rdSampleCtrl => true
  | .rdWaveCtrl => true
  | .rdWaveRate => true
  | .rdWaveStartMsw => true
  | .rdWaveStartLsw => true
  | .rdWaveEndMsw => true
  | .rdWaveEndLsw => true
  | .rdVolRate => true
  | .rdVolStart => true
  | .rdVolEnd => true
  | .rdVolCurrent => true
  | .rdWavePosMsw => true
  | .rdWavePosLsw => true
  | .rdPan => true
  | .rdVolCtrl => true
  | .rdVoiceIrq => true

/-- A transaction whose value fits its direction and width (`30_encoding.md` R92). -/
def Transaction.wellFormed (t : Transaction) : Bool :=
  if t.write then t.wide || fitsByte t.value else decide (t.value = 0)

/-- Whether a parameter is above a bound, which is the lower end of the range of an unknown one. -/
def RealParam.above (bound : Rat) : RealParam → Bool
  | .rational q => decide (bound < q)
  | .unknown _ => true

/-- A configuration within the bounds `92_eei_decisions.md` section 1 gives the OPEN parameters: L is the
width of a group of a 20-bit address, r is above 1, `LIMIT_RELEASE` is positive. (The bounds 0 to 7 of
`DMA_CHANNEL` and 0 to 15 of `IRQ_NUMBER` are in their types.) -/
def Params.wellFormed (p : Params) : Bool :=
  decide (p.addr16LowerBits ≤ 20) && p.volStepRatio.above 1 && p.limitRelease.above 0

end Sys2Proof
end

