-- ==== Sys2Proof/Decode.lean ====
section
/-! DEFINITION. Decoding and encoding of command words (`30_encoding.md` R92, R96, R97).

A command is a list of bytes, the byte of the lowest address first, so a packed word lies with its
least significant byte first (log 21). The number of bytes is the format: four are a `BTW`, three a
`REGW`, one a `REGR`. Decoding is total; whatever is no row of the opcode table is rejected by name. -/

namespace Sys2Proof

/-- Why a byte string is no command of the opcode table. -/
inductive Reject where
  /-- A write to an offset or in a direction the port map does not list (`30_encoding.md` R93). -/
  | unlistedWrite
  /-- An 8-bit read of an offset or in a direction the port map does not list. -/
  | unlistedRead8
  /-- A 16-bit read of an offset the port map does not list. -/
  | unlistedRead16
  /-- A 16-bit access to a port listed as 8-bit (`45_global_registers.md` R276). -/
  | wideAccess
  /-- A write command of a register id with no write rule (`30_encoding.md` R100). -/
  | unknownRegisterWrite
  /-- A read command of a register id with no read rule (`30_encoding.md` R100). -/
  | unknownRegisterRead
  /-- No word of any format (log 20). -/
  | malformed
deriving DecidableEq, Repr

/-- Bits 7:0 of a halfword. -/
def lowByte (h : Half) : Byte := h.extractLsb' 0 8

/-- Bits 15:8 of a halfword. -/
def highByte (h : Half) : Byte := h.extractLsb' 8 8

/-- The halfword with the given high and low bytes. -/
def joinBytes (hi lo : Byte) : Half := hi ++ lo

/-- An 8-bit port write: bits 15:8 of the value are 0 (`30_encoding.md` R92). -/
def portWrite8 (mk : Half → Instr) (val : Half) : Except Reject Instr :=
  if fitsByte val then .ok (mk val) else .error .malformed

/-- A port read: the value is 0 (`30_encoding.md` R92). -/
def portRead (i : Instr) (val : Half) : Except Reject Instr :=
  if val = 0 then .ok i else .error .malformed

/-- The offsets of the port map (`30_encoding.md` R90) that are listed with width 8 only. -/
def byteOffsets : List Nat :=
  [0x200, 0x206, 0x208, 0x209, 0x20A, 0x20B, 0x302, 0x303, 0x305, 0x307]

/-- A transaction that is no row of the table (`30_encoding.md` R93, `45_global_registers.md` R276);
`hi` is bits 31:16 of its word. -/
def unlisted (hi val : Half) : Reject :=
  if hi.extractLsb' 12 2 ≠ 0 then .malformed
  else if hi.getLsbD 14 then
    if (hi.extractLsb' 0 12).toNat ∈ byteOffsets then .wideAccess
    else if hi.getLsbD 15 then .unlistedWrite
    else if val = 0 then .unlistedRead16 else .malformed
  else if hi.getLsbD 15 then if fitsByte val then .unlistedWrite else .malformed
  else if val = 0 then .unlistedRead8 else .malformed

/-- A bus transaction word (`30_encoding.md` R92): `hi` holds `dir`, `w16`, two zero bits and `offset`,
`val` the data. The offsets are those of R90. -/
def decodeBtw (hi val : Half) : Except Reject Instr :=
  match hi.toNat with
  | 0x8200 => portWrite8 .outbMixCtrl val
  | 0x0206 => portRead .inbIrqStatus val
  | 0x0208 => portRead .inbTimerStatus val
  | 0x8208 => portWrite8 .outbAdlibCmd val
  | 0x8209 => portWrite8 .outbTimerCmd val
  | 0x020A => portRead .inbAdlibCmdRb val
  | 0x820B => portWrite8 .outbChanSelect val
  | 0x8302 => portWrite8 .outbVoiceIndex val
  | 0x0302 => portRead .inbVoiceIndex val
  | 0x8303 => portWrite8 .outbRegSelect val
  | 0x0303 => portRead .inbRegSelect val
  | 0x8304 => portWrite8 .outbRegDataLo val
  | 0xC304 => .ok (.outwRegData val)
  | 0x8305 => portWrite8 .outbRegDataHi val
  | 0x0304 => portRead .inbRegDataLo val
  | 0x4304 => portRead .inwRegData val
  | 0x0305 => portRead .inbRegDataHi val
  | 0x0307 => portRead .inbDramData val
  | 0x8307 => portWrite8 .outbDramData val
  | _ => .error (unlisted hi val)

/-- A register write command word (`30_encoding.md` R96, R97). -/
def decodeRegw (id : Byte) (data : Half) : Except Reject Instr :=
  match id.toNat with
  | 0x00 => .ok (.waveCtrl data)
  | 0x01 => .ok (.waveRate data)
  | 0x02 => .ok (.waveStartMsw data)
  | 0x03 => .ok (.waveStartLsw data)
  | 0x04 => .ok (.waveEndMsw data)
  | 0x05 => .ok (.waveEndLsw data)
  | 0x06 => .ok (.volRate data)
  | 0x07 => .ok (.volStart data)
  | 0x08 => .ok (.volEnd data)
  | 0x09 => .ok (.volCurrent data)
  | 0x0A => .ok (.wavePosMsw data)
  | 0x0B => .ok (.wavePosLsw data)
  | 0x0C => .ok (.pan data)
  | 0x0D => .ok (.volCtrl data)
  | 0x0E => .ok (.activeVoices data)
  | 0x41 => .ok (.dmaCtrl data)
  | 0x42 => .ok (.dmaAddr data)
  | 0x43 => .ok (.dramAddrA data)
  | 0x44 => .ok (.dramAddrB data)
  | 0x45 => .ok (.timerCtrl data)
  | 0x46 => .ok (.timer1Value data)
  | 0x47 => .ok (.timer2Value data)
  | 0x49 => .ok (.sampleCtrl data)
  | 0x4C => .ok (.runtimeCtrl data)
  | _ => .error .unknownRegisterWrite

/-- A register read command (`30_encoding.md` R96, R97). -/
def decodeRegr (id : Byte) : Except Reject Instr :=
  match id.toNat with
  | 0x41 => .ok .rdDmaCtrl
  | 0x42 => .ok .rdDmaAddr
  | 0x45 => .ok .rdTimerCtrl
  | 0x49 => .ok .rdSampleCtrl
  | 0x80 => .ok .rdWaveCtrl
  | 0x81 => .ok .rdWaveRate
  | 0x82 => .ok .rdWaveStartMsw
  | 0x83 => .ok .rdWaveStartLsw
  | 0x84 => .ok .rdWaveEndMsw
  | 0x85 => .ok .rdWaveEndLsw
  | 0x86 => .ok .rdVolRate
  | 0x87 => .ok .rdVolStart
  | 0x88 => .ok .rdVolEnd
  | 0x89 => .ok .rdVolCurrent
  | 0x8A => .ok .rdWavePosMsw
  | 0x8B => .ok .rdWavePosLsw
  | 0x8C => .ok .rdPan
  | 0x8D => .ok .rdVolCtrl
  | 0x8F => .ok .rdVoiceIrq
  | _ => .error .unknownRegisterRead

/-- The command a byte string stands for. -/
def decode : List Byte → Except Reject Instr
  | [b0, b1, b2, b3] => decodeBtw (joinBytes b3 b2) (joinBytes b1 b0)
  | [b0, b1, b2] => decodeRegw b2 (joinBytes b1 b0)
  | [b0] => decodeRegr b0
  | _ => .error .malformed

/-- The offset of the port map that a host's port number stands for (`30_encoding.md` R91:
`port = offset + (PORT_BASE - 0x200)`), if there is one. -/
def portOffset (portBase port : Nat) : Option Nat :=
  if portBase ≤ port + 0x200 ∧ port + 0x200 - portBase < 0x1000 then some (port + 0x200 - portBase)
  else none

/-- Bits 31:16 of the word that packs a transaction at an offset (`30_encoding.md` R92). -/
def transactionHi (t : Transaction) (offset : Nat) : Half :=
  (if t.write then 0x8000#16 else 0) ||| (if t.wide then 0x4000#16 else 0) ||| BitVec.ofNat 16 offset

/-- The command a transaction stands for. A port number outside the map is an unlisted port
(`45_global_registers.md` R276, log 23). -/
def decodeTransaction (portBase : Nat) (t : Transaction) : Except Reject Instr :=
  match portOffset portBase t.port with
  | some o => decodeBtw (transactionHi t o) t.value
  | none =>
    .error (if t.write then .unlistedWrite else if t.wide then .unlistedRead16 else .unlistedRead8)

/-! ### Encoding -/

/-- The four bytes of a bus transaction word. -/
def encodeBtw (hi val : Half) : List Byte := [lowByte val, highByte val, lowByte hi, highByte hi]

/-- The three bytes of a register write command word. -/
def encodeRegw (id : Byte) (data : Half) : List Byte := [lowByte data, highByte data, id]

/-- The bytes of a command (`30_encoding.md` R90, R92, R96, R97). -/
def encode : Instr → List Byte
  | .outbMixCtrl v => encodeBtw 0x8200#16 v
  | .inbIrqStatus => encodeBtw 0x0206#16 0
  | .inbTimerStatus => encodeBtw 0x0208#16 0
  | .outbAdlibCmd v => encodeBtw 0x8208#16 v
  | .outbTimerCmd v => encodeBtw 0x8209#16 v
  | .inbAdlibCmdRb => encodeBtw 0x020A#16 0
  | .outbChanSelect v => encodeBtw 0x820B#16 v
  | .outbVoiceIndex v => encodeBtw 0x8302#16 v
  | .inbVoiceIndex => encodeBtw 0x0302#16 0
  | .outbRegSelect v => encodeBtw 0x8303#16 v
  | .inbRegSelect => encodeBtw 0x0303#16 0
  | .outbRegDataLo v => encodeBtw 0x8304#16 v
  | .outwRegData v => encodeBtw 0xC304#16 v
  | .outbRegDataHi v => encodeBtw 0x8305#16 v
  | .inbRegDataLo => encodeBtw 0x0304#16 0
  | .inwRegData => encodeBtw 0x4304#16 0
  | .inbRegDataHi => encodeBtw 0x0305#16 0
  | .inbDramData => encodeBtw 0x0307#16 0
  | .outbDramData v => encodeBtw 0x8307#16 v
  | .waveCtrl d => encodeRegw 0x00#8 d
  | .waveRate d => encodeRegw 0x01#8 d
  | .waveStartMsw d => encodeRegw 0x02#8 d
  | .waveStartLsw d => encodeRegw 0x03#8 d
  | .waveEndMsw d => encodeRegw 0x04#8 d
  | .waveEndLsw d => encodeRegw 0x05#8 d
  | .volRate d => encodeRegw 0x06#8 d
  | .volStart d => encodeRegw 0x07#8 d
  | .volEnd d => encodeRegw 0x08#8 d
  | .volCurrent d => encodeRegw 0x09#8 d
  | .wavePosMsw d => encodeRegw 0x0A#8 d
  | .wavePosLsw d => encodeRegw 0x0B#8 d
  | .pan d => encodeRegw 0x0C#8 d
  | .volCtrl d => encodeRegw 0x0D#8 d
  | .activeVoices d => encodeRegw 0x0E#8 d
  | .dmaCtrl d => encodeRegw 0x41#8 d
  | .dmaAddr d => encodeRegw 0x42#8 d
  | .dramAddrA d => encodeRegw 0x43#8 d
  | .dramAddrB d => encodeRegw 0x44#8 d
  | .timerCtrl d => encodeRegw 0x45#8 d
  | .timer1Value d => encodeRegw 0x46#8 d
  | .timer2Value d => encodeRegw 0x47#8 d
  | .sampleCtrl d => encodeRegw 0x49#8 d
  | .runtimeCtrl d => encodeRegw 0x4C#8 d
  | .rdDmaCtrl => [0x41#8]
  | .rdDmaAddr => [0x42#8]
  | .rdTimerCtrl => [0x45#8]
  | .rdSampleCtrl => [0x49#8]
  | .rdWaveCtrl => [0x80#8]
  | .rdWaveRate => [0x81#8]
  | .rdWaveStartMsw => [0x82#8]
  | .rdWaveStartLsw => [0x83#8]
  | .rdWaveEndMsw => [0x84#8]
  | .rdWaveEndLsw => [0x85#8]
  | .rdVolRate => [0x86#8]
  | .rdVolStart => [0x87#8]
  | .rdVolEnd => [0x88#8]
  | .rdVolCurrent => [0x89#8]
  | .rdWavePosMsw => [0x8A#8]
  | .rdWavePosLsw => [0x8B#8]
  | .rdPan => [0x8C#8]
  | .rdVolCtrl => [0x8D#8]
  | .rdVoiceIrq => [0x8F#8]

/-! ### The opcode table's numbering -/

/-- The `k` bytes of a number, least significant first. -/
def wordBytes : Nat → Nat → List Byte
  | 0, _ => []
  | k + 1, w => BitVec.ofNat 8 w :: wordBytes k (w / 256)

/-- The bytes that a table word of `nbits` bits is laid out as. -/
def tableBytes (nbits w : Nat) : List Byte := wordBytes ((nbits + 7) / 8) w

/-- The command the decoder reads from a word numbered as `spec/opcode_table.json` numbers it. -/
def decodeTableWord (nbits w : Nat) : Option Instr :=
  match decode (tableBytes nbits w) with
  | .ok i => some i
  | .error _ => none

end Sys2Proof
end

