-- ==== Sys2Proof/Machine/Order.lean ====
section
/-! DEFINITION. The order of the exact real numbers (`00_scope.md` R14). Among numbers without open ones it is
computed; `Laws/Exact.lean` proves that it is the order of the real numbers meant. -/

namespace Sys2Proof

/-- The sign of the number (`Exact.sign_eq` of `Laws/Exact.lean`). -/
def Exact.sign (x : Exact) : SignType :=
  match x.unknown with
  | [] => x.known.sign
  | _ => Config.openOrder.sign x

/-- Whether `x < y`. -/
def Exact.lt (x y : Exact) : Bool := (y.sub x).sign == 1

def Exact.abs (x : Exact) : Exact := if x.sign = -1 then x.neg else x

def Exact.max (x y : Exact) : Exact := if x.lt y then y else x

end Sys2Proof
end

