-- ==== Sys2Proof/Machine/State.lean ====
section
/-! DEFINITION. The state of the block, piece by piece as `10_state.md` gives it, the reasons a step can
stop, and the state after construction. Everything here is plain data. -/

namespace Sys2Proof.Machine

/-- A control track (`10_state.md` R21). On the wave track the four `s32` fields
count 1/512 of a sample address, on the volume track 1/512 of a table index. -/
structure Track where
  start : S32
  /-- DOC00's `end`. -/
  endAt : S32
  pos : S32
  inc : S32
  /-- The raw rate register, kept for readback. -/
  rate : Half
  /-- The seven flags of R22. -/
  state : TrackFlags
deriving DecidableEq, Repr

/-- A voice (`10_state.md` R20). -/
structure Voice where
  wave : Track
  vol : Track
  panPosition : Fin 16
deriving DecidableEq, Repr

/-- A timer (`10_state.md` R36). -/
structure Timer where
  value : Byte
  expired : Bool
  masked : Bool
  raiseIrq : Bool
  counting : Bool
deriving DecidableEq, Repr

/-- The two control tracks of a voice (`40_track_advance.md` R130). -/
inductive Axis where
  | wave
  | vol
deriving DecidableEq, Repr

/-- One stereo pair of `ACC` (`10_state.md` R41). -/
structure Frame where
  left : Exact
  right : Exact
deriving DecidableEq, Repr

/-- Sample RAM as the bytes written so far, addresses strictly rising, all below `2^20`. An address that
is not listed holds no byte of its own: it has not been written since power-on (log 6). -/
abbrev Memory := List Host.Cell

/-- What a host DMA channel shows at a transfer attempt (`20_memory.md` R75). -/
structure HostChannel where
  /-- `chan.masked`. -/
  masked : Bool
  /-- What `chan.HostRead` yields; its length is `chan.count`. In a download only the length counts (log 18). -/
  bytes : List Byte
deriving DecidableEq, Repr

/-- One step of one agent, with the draws it takes (`00_scope.md` R8, R11; log 1). -/
inductive AgentStep where
  /-- `HOST`: a packed command word (`30_encoding.md` R92, R96), lowest byte first. -/
  | command (bytes : List Byte)
  /-- `HOST`: a bus transaction by its components, at a host port number (R91, R92). -/
  | bus (t : Transaction)
  /-- `SEQ`: the mixer asks for this many frames (`43_voice_render.md` R196). -/
  | seq (frames : Nat)
  /-- `DMA`: one attempt (`46_dma.md` R312), with what each of the host's channels shows at it. -/
  | dma (channels : Vector HostChannel 8)
  /-- `TIMER1`: one expiry (`60_exceptions.md` R371). -/
  | timer1
  /-- `TIMER2`: one expiry. -/
  | timer2
deriving DecidableEq, Repr

/-- An output event of the block (log 4). -/
inductive OutEvent where
  /-- `IrqAssert(n)` (`60_exceptions.md` R362). -/
  | irqAssert (n : Fin 16)
  /-- `AudioPush` of 16-bit stereo pairs, left first (`47_output_limiter.md` R345). -/
  | audioPush (frames : List (Half × Half))
  /-- `AudioRate(active_voices)` (`47_output_limiter.md` R345, `45_global_registers.md` R280). -/
  | audioRate (voices : Nat)
  /-- `chan.HostWrite(bytes)` of the host channel of this number (`20_memory.md` R75). -/
  | hostWrite (channel : Fin 8) (bytes : List Byte)
deriving DecidableEq, Repr

/-- What the last host command delivered (`45_global_registers.md` R260: "A read returns a value of the
access width"; log 3). -/
inductive Reply where
  | none
  | byte (b : Byte)
  | half (h : Half)
deriving DecidableEq, Repr

/-- The state of the block. The fields from `params` on are the model's own (`INVENTORY.md`, State). -/
structure State where
  /-- `V[0..31]` (R20). -/
  voices : Vector Voice 32
  /-- `wave_state` (R26). -/
  waveState : Word
  /-- `vol_state` (R26). -/
  volState : Word
  /-- `status`, the round-robin cursor (R26). -/
  status : Fin 32
  /-- `selected_register` (R27). -/
  selectedRegister : Byte
  /-- `register_data` (R27). -/
  registerData : Half
  /-- `voice_index` (R28). -/
  voiceIndex : Fin 32
  /-- `voice_selected` (R28). -/
  voiceSelected : Bool
  /-- `active_voices` (R29). -/
  activeVoices : Nat
  /-- `active_voice_mask` (R29). -/
  activeVoiceMask : Word
  /-- `irq_status` (R30). -/
  irqStatus : Byte
  /-- `irq_enabled` (R31). -/
  irqEnabled : Bool
  /-- `output_enabled` (R31). -/
  outputEnabled : Bool
  /-- `dma_ctrl` (R32). -/
  dmaCtrl : Byte
  /-- `dma_addr` (R32). -/
  dmaAddr : Half
  /-- `dma_scheduled` (R32). -/
  dmaScheduled : Bool
  /-- `dram_addr` (R33). -/
  dramAddr : RamAddr
  /-- `mix_ctrl` (R34). -/
  mixCtrl : Byte
  /-- `should_apply` (R34). -/
  shouldApply : Bool
  /-- `sample_ctrl` (R35). -/
  sampleCtrl : Byte
  /-- `timer_ctrl` (R35). -/
  timerCtrl : Byte
  /-- `T[1]` (R36). -/
  timer1 : Timer
  /-- `T[2]` (R36). -/
  timer2 : Timer
  /-- `adlib_command` (R37). -/
  adlibCommand : Byte
  /-- `dma_channel` (R38). -/
  dmaChannel : Fin 8
  /-- `irq_number` (R38). -/
  irqNumber : Fin 16
  /-- `RAM` (R39). -/
  ram : Memory
  /-- `ACC` (R41): empty but inside a `SEQ` step. -/
  acc : List Frame
  /-- `peak_left` (R42). -/
  peakLeft : Exact
  /-- `peak_right` (R42). -/
  peakRight : Exact
  /-- The configuration (`00_scope.md` R7); no step writes it (log 5). -/
  params : Params
  /-- The agent steps still to come, the next one first (log 1). -/
  inbox : List AgentStep
  /-- What the last host command delivered (log 3). -/
  reply : Reply
  /-- The output events so far, oldest first (log 4). -/
  out : List OutEvent
  /-- How many free values have been drawn (log 12). -/
  draws : Nat
deriving DecidableEq, Repr

/-- The conditions outside the block's defined behaviour (`60_exceptions.md` R351). -/
inductive Fault where
  /-- A position computation left `s32` (`00_scope.md` R13). Raised by a `SEQ` step. Safe: the source
  defines nothing after it (log 13). -/
  | trackOverflow
  /-- A DMA byte range passes the end of RAM (`46_dma.md` R314). Raised by a `DMA` step. Safe: the source
  asserts and defines nothing after it. -/
  | dmaRange
deriving DecidableEq, Repr

/-- The inputs the model does not accept. -/
inductive Refusal where
  /-- An instruction that has no meaning yet; raised by `exec` only. Safe. -/
  | notModelled (mnemonic : String)
  /-- A 16-bit access to a port listed as 8-bit: `45_global_registers.md` R276, "a model refuses it".
  Raised by the step on a command that is no row of the opcode table. Safe (log 19). -/
  | wideAccess
  /-- A byte string that is no command word of any format. Raised by the step. Safe: the hardware has no
  such input (log 20). -/
  | malformedCommand
deriving DecidableEq, Repr

/-- What a step or a meaning answers. -/
abbrev Result := Host.Outcome State Fault Refusal

/-- A control track at power-on (`10_state.md` R46): zero fields, `state = 0x03`. -/
def Track.powerOn : Track :=
  { start := ⟨0, 0⟩, endAt := ⟨0, 0⟩, pos := ⟨0, 0⟩, inc := ⟨0, 0⟩, rate := 0, state := 0x03#7 }

/-- A voice at power-on (`10_state.md` R46): both tracks held, pan centre. -/
def Voice.powerOn : Voice :=
  { wave := Track.powerOn, vol := Track.powerOn, panPosition := 7 }

/-- A timer at power-on (`10_state.md` R46). -/
def Timer.powerOn : Timer :=
  { value := 0xFF#8, expired := true, masked := false, raiseIrq := false, counting := false }

/-- The POWER-ON column of `10_state.md` R46 under a configuration (`70_reset_and_hazards.md` R401).
`adlib_command` has no value there: 0, DESIGN CHOICE, unsafe (log 7). -/
def State.powerOn (p : Params) : State :=
  { voices := Vector.replicate 32 Voice.powerOn
    waveState := 0
    volState := 0
    status := 0
    selectedRegister := 0
    registerData := 0
    voiceIndex := 0
    voiceSelected := false
    activeVoices := 0
    activeVoiceMask := 0
    irqStatus := 0
    irqEnabled := false
    outputEnabled := false
    dmaCtrl := 0
    dmaAddr := 0
    dmaScheduled := false
    dramAddr := 0
    mixCtrl := 0x0B#8
    shouldApply := false
    sampleCtrl := 0
    timerCtrl := 0
    timer1 := Timer.powerOn
    timer2 := Timer.powerOn
    adlibCommand := 0
    dmaChannel := p.dmaChannel
    irqNumber := p.irqNumber
    ram := []
    acc := []
    peakLeft := .ofRat Config.peakSeed
    peakRight := .ofRat Config.peakSeed
    params := p
    inbox := []
    reply := .none
    out := []
    draws := 0 }

/-- The machine right after construction, under the default configuration of `95_test_vectors.md`
(log 5), with nothing in the inbox (log 1). -/
def State.reset : State := State.powerOn Config.defaultParams

end Sys2Proof.Machine
end

