-- ==== Sys2Proof/Machine/Flags.lean ====
section
/-! DEFINITION. The flags: the seven state flags of a control track (`10_state.md` R22), the bits of
`irq_status` (R30), the pending bitmasks (R26), and the predicates the rules test on them. -/

namespace Sys2Proof.Machine

/-! ### Track flags (`10_state.md` R22) -/

/-- `state & DISABLED != 0`: `RESET` or `STOPPED` is set. -/
def Track.disabled (t : Track) : Bool := t.state &&& 0x03#7 != 0

/-- `BIT16(0x04)`. -/
def Track.bit16 (t : Track) : Bool := t.state &&& 0x04#7 != 0

/-- `LOOP(0x08)`. -/
def Track.loops (t : Track) : Bool := t.state &&& 0x08#7 != 0

/-- `BIDIRECTIONAL(0x10)`. -/
def Track.bidirectional (t : Track) : Bool := t.state &&& 0x10#7 != 0

/-- `RAISEIRQ(0x20)`. -/
def Track.raisesIrq (t : Track) : Bool := t.state &&& 0x20#7 != 0

/-- `DECREASING(0x40)`. -/
def Track.decreasing (t : Track) : Bool := t.state &&& 0x40#7 != 0

/-- What a non-looping track does to its flags at its boundary (`40_track_advance.md` R137): the bit set
is `0x01` (`90_conflicts.md` C1). -/
def stoppedFlags (f : TrackFlags) : TrackFlags := f ||| 0x01#7

/-- What a looping track does to its flags at its boundary (R138): `DECREASING` flips if
`BIDIRECTIONAL` is set. -/
def turnedFlags (t : Track) : TrackFlags :=
  if t.bidirectional then t.state ^^^ 0x40#7 else t.state

/-- `Rollover(v)` (`40_track_advance.md` R139): the volume track's `BIT16` is set and the wave track's
`LOOP` is not. -/
def Voice.rollover (x : Voice) : Bool := x.vol.bit16 && !x.wave.loops

/-- The skip test of `43_voice_render.md` R197: each of the two tracks is disabled. -/
def Voice.silent (x : Voice) : Bool := x.wave.disabled && x.vol.disabled

/-! ### Pending bitmasks (`10_state.md` R20, R26, R29) -/

/-- `irq_mask(v) = 1 << v`. -/
def voiceBit (v : Fin 32) : Word := 1#32 <<< v.val

/-- `(1 << n) - 1`, truncated to 32 bits: the mask of `n` active voices. -/
def maskOf (n : Nat) : Word := BitVec.ofNat 32 (2 ^ n - 1)

/-! ### `irq_status` (`10_state.md` R30, `60_exceptions.md` R353) -/

/-- DMA terminal count. -/
def irqDma : Byte := 0x80#8

/-- Some active voice has a volume IRQ pending. -/
def irqVol : Byte := 0x40#8

/-- Some active voice has a wave IRQ pending. -/
def irqWave : Byte := 0x20#8

/-- Timer 2. -/
def irqTimer2 : Byte := 0x08#8

/-- Timer 1. -/
def irqTimer1 : Byte := 0x04#8

/-- The mask of `CheckIrq` (`60_exceptions.md` R360): `irq_enabled` gates the two voice bits only. -/
def irqGate (enabled : Bool) : Byte := if enabled then 0xFF#8 else 0x9F#8

/-- `irq_status` after the aggregation of `60_exceptions.md` R355, from the pending volume and wave bits
of the active voices. -/
def aggregated (irqStatus : Byte) (vm wm : Word) : Byte :=
  (irqStatus &&& 0x9F#8) ||| (if vm != 0 then irqVol else 0) ||| (if wm != 0 then irqWave else 0)

end Sys2Proof.Machine
end

