-- ==== Sys2Proof/Machine/Operands.lean ====
section
/-! DEFINITION. Operand forms: the field layouts of `30_encoding.md` R98 to R118, the integer helpers of
`00_scope.md` R12, the conversions of register operands to state fields and back, and the address
translations of `20_memory.md` R69 to R71. -/

namespace Sys2Proof

namespace Machine

/-! ### Integer helpers (`00_scope.md` R12) -/

/-- `ceil_div(a, b)` for `b > 0`: the least integer `q` with `q * b >= a`. -/
def ceilDiv (a b : Int) : Int := -((-a) / b)

/-- `clamp(v, lo, hi)`. -/
def clamp (v lo hi : Int) : Int := if v < lo then lo else if hi < v then hi else v

end Machine

/-! ### `s32` fields (`00_scope.md` R10, R13) -/

/-- The two's-complement pattern of an `s32`. -/
def S32.word (f : S32) : Word := f.hi ++ f.lo

/-- The `s32` with a pattern. -/
def S32.ofWord (w : Word) : S32 := ⟨w.extractLsb' 16 16, w.extractLsb' 0 16⟩

/-- The value of an `s32`. -/
def S32.toInt (f : S32) : Int := f.word.toInt

/-- The `s32` of an integer within its range. -/
def S32.ofInt (x : Int) : S32 := S32.ofWord (BitVec.ofInt 32 x)

namespace Machine

/-! ### Port and register data (`30_encoding.md` R92, R98) -/

/-- `val[7:0]` of a port write. -/
def byteOf (val : Half) : Byte := lowByte val

/-- `D[15:8]`, the operand of an 8-bit register. -/
def dataByte (d : Half) : Byte := highByte d

/-- An 8-bit register's value as a register read delivers it: in bits 15:8, bits 7:0 zero (R98). -/
def inHighByte (b : Byte) : Half := joinBytes b 0

/-- `val[4:0]` of a voice index write (`45_global_registers.md` R266). -/
def voiceNumber (val : Half) : Fin 32 := (val.extractLsb' 0 5).toFin

/-! ### Wave registers (`30_encoding.md` R104, R105; `44_voice_registers.md` R212, R226) -/

/-- `wave.inc` of a rate word: `ceil_div(D, 2)`, 0 to 32768. -/
def waveIncrement (d : Half) : S32 := S32.ofInt (ceilDiv d.toNat 2)

/-- `SetMsw(f, D)`: bits 31:16 become `D & 0x1FFF`, bits 15:0 stay. -/
def setMsw (f : S32) (d : Half) : S32 := { f with hi := d &&& 0x1FFF#16 }

/-- `SetLsw(f, D)`: bits 15:0 become `D`, bits 31:16 stay. -/
def setLsw (f : S32) (d : Half) : S32 := { f with lo := d }

/-- `(f >> 16) & 0xFFFF` of the two's-complement pattern (`44_voice_registers.md` R234). -/
def mswOf (f : S32) : Half := f.hi

/-- `f & 0xFFFF` (`44_voice_registers.md` R235). -/
def lswOf (f : S32) : Half := f.lo

/-! ### Volume registers (`30_encoding.md` R106 to R108; `42_volume.md` R171, R173) -/

/-- `VolInc(b)`: `ceil_div(magnitude * 512, 8 ^ bank)`, magnitude in bits 5:0, bank in bits 7:6. -/
def volInc (b : Byte) : S32 :=
  S32.ofInt (ceilDiv ((b.extractLsb' 0 6).toNat * 512) (8 ^ (b.extractLsb' 6 2).toNat))

/-- `(b << 4) * 512`: the field of a volume start or end byte. -/
def volBound (b : Byte) : S32 := S32.ofInt ((b.toNat <<< 4) * 512 : Nat)

/-- `D[15:4] * 512`: the field of a current volume word. -/
def volCurrentOf (d : Half) : S32 := S32.ofInt ((d.extractLsb' 4 12).toNat * 512 : Nat)

/-- `VolIndex(p)`: `clamp(ceil_div(p, 512), 0, 4095)`. -/
def volIndex (p : S32) : Nat := (clamp (ceilDiv p.toInt 512) 0 4095).toNat

/-- `((f / 512) >> 4) << 8`: the readback of a volume start or end (`44_voice_registers.md` R239, log 25). -/
def volBoundReadback (f : S32) : Half := BitVec.ofInt 16 (f.toInt / 512 / 16 * 256)

/-! ### Pan (`30_encoding.md` R109, `44_voice_registers.md` R223) -/

/-- The pan position a pan byte gives. -/
def panValue (mode : PanWriteMode) (b : Byte) : Fin 16 :=
  match mode with
  | .saturate => Fin.ofNat 16 (min b.toNat 15)
  | .low4 => (b.extractLsb' 0 4).toFin

/-! ### Control byte (`30_encoding.md` R102, R103) -/

/-- The flags a control byte stores: bits 6:0. -/
def controlFlags (b : Byte) : TrackFlags := b.extractLsb' 0 7

/-- Bits 7 and 5 both set: the write forces the pending bit. -/
def forcesIrq (b : Byte) : Bool := b &&& 0xA0#8 == 0xA0#8

/-- `ReadCtrl` (`44_voice_registers.md` R231): bits 6:0 the flags, bit 7 the pending bit. -/
def controlReadback (f : TrackFlags) (pending : Bool) : Byte :=
  f.setWidth 8 ||| (if pending then 0x80#8 else 0)

/-! ### Global registers -/

/-- The voice count of an active-voices write (`45_global_registers.md` R280):
`clamp(1 + D[12:8], 14, 32)`. -/
def requestedVoices (d : Half) : Nat :=
  (clamp (1 + (d.extractLsb' 8 5).toNat) Config.minActive Config.maxActive).toNat

/-- `run_state`, `D[10:8]` (`30_encoding.md` R111). -/
def runState (d : Half) : Nat := (d.extractLsb' 8 3).toNat

/-- The IRQ-enable flag, `D[10]`. -/
def irqEnableBit (d : Half) : Bool := d.getLsbD 10

/-- `dram_addr <- (dram_addr & 0xF0000) | D[15:0]` (`45_global_registers.md` R284). -/
def setDramLow (a : RamAddr) (d : Half) : RamAddr := (a &&& 0xF0000#20) ||| d.setWidth 20

/-- `dram_addr <- (dram_addr & 0x0FFFF) | (D[11:8] << 16)` (`45_global_registers.md` R285). -/
def setDramHigh (a : RamAddr) (d : Half) : RamAddr :=
  (a &&& 0x0FFFF#20) ||| ((d.extractLsb' 8 4).setWidth 20 <<< 16)

/-- `IRQ_TABLE` (`30_encoding.md` R118). -/
def irqTable (i : BitVec 3) : Option (Fin 16) :=
  match i.toNat with
  | 1 => some 2
  | 2 => some 5
  | 3 => some 3
  | 4 => some 7
  | 5 => some 11
  | 6 => some 12
  | 7 => some 15
  | _ => none

/-- `DMA_TABLE` (`30_encoding.md` R118). -/
def dmaTable (i : BitVec 3) : Option (Fin 8) :=
  match i.toNat with
  | 1 => some 1
  | 2 => some 3
  | 3 => some 5
  | 4 => some 6
  | 5 => some 7
  | _ => none

/-- The index of a channel-select write, `val[2:0]` (`30_encoding.md` R118). -/
def channelIndex (val : Half) : BitVec 3 := val.extractLsb' 0 3

/-- `mix_ctrl` bit 6: a channel select sets the IRQ, not the DMA channel (`30_encoding.md` R117). -/
def selectsIrq (mixCtrl : Byte) : Bool := mixCtrl &&& 0x40#8 != 0

/-- `mix_ctrl` bit 3: the interrupt-line enable (`30_encoding.md` R117). -/
def lineEnabled (mixCtrl : Byte) : Bool := mixCtrl &&& 0x08#8 != 0

/-- One bit at a place of a byte. -/
def bitAt (b : Bool) (n : Nat) : Byte := if b then 1#8 <<< n else 0

/-- The byte of a timer status read (`30_encoding.md` R116): bit 7 either timer expired, bit 6 timer 1,
bit 5 timer 2, bit 2 = `irq_status` bit 2, bit 1 = `irq_status` bit 3. -/
def timerStatus (expired1 expired2 : Bool) (irqStatus : Byte) : Byte :=
  bitAt (expired1 || expired2) 7 ||| bitAt expired1 6 ||| bitAt expired2 5 |||
    bitAt (irqStatus.getLsbD 2) 2 ||| bitAt (irqStatus.getLsbD 3) 1

/-- The byte of a voice IRQ status read (`30_encoding.md` R115): the cursor, bit 5 set, bit 6 no volume
IRQ, bit 7 no wave IRQ. -/
def voiceIrqByte (status : Fin 32) (volPending wavePending : Bool) : Byte :=
  BitVec.ofNat 8 status.val ||| 0x20#8 ||| bitAt (!volPending) 6 ||| bitAt (!wavePending) 7

/-! ### DMA (`30_encoding.md` R112, R113; `20_memory.md` R71) -/

/-- `DMA_ENABLE`. -/
def dmaEnabled (c : Byte) : Bool := c &&& 0x01#8 != 0

/-- `DMA_DOWNLOAD`. -/
def dmaDownload (c : Byte) : Bool := c &&& 0x02#8 != 0

/-- `DMA_WIDE` is effective only on a channel number of at least 4. -/
def dmaWide (c : Byte) (channel : Fin 8) : Bool := c &&& 0x04#8 != 0 && decide (4 ≤ channel.val)

/-- `DMA_TC_IRQ`. -/
def dmaTcIrq (c : Byte) : Bool := c &&& 0x20#8 != 0

/-- `DMA_PCM16`, as written. -/
def dmaPcm16 (c : Byte) : Bool := c &&& 0x40#8 != 0

/-- `DMA_FLIP`. -/
def dmaFlip (c : Byte) : Bool := c &&& 0x80#8 != 0

/-- `DmaAddr8`. -/
def dmaAddr8 (a : Half) : RamAddr := a.setWidth 20 <<< 4

/-- `DmaAddr16`. -/
def dmaAddr16 (a : Half) : RamAddr :=
  (((a &&& 0x1FFF#16) <<< 1) ||| (a &&& 0xC000#16)).setWidth 20 <<< 4

/-- `DmaAddr`, the first RAM byte of a transfer. -/
def dmaBase (c : Byte) (channel : Fin 8) (a : Half) : RamAddr :=
  if dmaWide c channel then dmaAddr16 a else dmaAddr8 a

/-! ### Sample addresses (`20_memory.md` R69, R70) -/

/-- `Addr8(a) = a & 0xFFFFF`. -/
def addr8 (a : Nat) : RamAddr := BitVec.ofNat 20 a

/-- `Addr16(a) = ((a & U) | ((a & ((1 << L) - 1)) << 1)) & 0xFFFFF`. -/
def addr16 (p : Params) (a : Nat) : RamAddr :=
  BitVec.ofNat 20 ((a &&& p.addr16UpperMask.toNat) ||| ((a % 2 ^ p.addr16LowerBits) <<< 1))

end Machine

end Sys2Proof
end

