-- ==== Sys2Proof/Machine/Tables.lean ====
section
/-! DEFINITION. The two constant tables, `VOL` (`42_volume.md` R176) and `PAN` (`43_voice_render.md` R190
to R192), as functions of the configuration, and the rounding of `NUM` (`00_scope.md` R14).

An entry is the number itself, as an `Exact` number: a power of `r`, a cosine or sine, and so is all that is
computed from them (log 14, log 15). -/

namespace Sys2Proof.Machine

/-- What `NUM` makes of the exact result `x` of a rule at a site. -/
def roundExact (n : Numerics) (site : NumSite) (x : Exact) : Exact :=
  match n with
  | .exact => x
  | .implementation => .ofRat (Config.numRound site x)

/-- `VOL[i]` (`42_volume.md` R176): `VOL[0] = 0`, `VOL[i] = r ^ (i - 4095)`, so `VOL[4095] = 1`. -/
def volEntry (p : Params) (i : Nat) : Exact :=
  if i = 0 then .zero
  else if 4095 ≤ i then .ofRat 1
  else roundExact p.numerics (.volEntry i) (p.volStepRatio.inversePower .volStepRatio (4095 - i))

/-! ### The pan table -/

/-- `norm(p)` (`43_voice_render.md` R190). -/
def panNorm (p : Nat) : Rat := if p < 7 then ((p : Rat) - 7) / 7 else ((p : Rat) - 7) / 8

/-- `θ(p)` in units of `π` (`43_voice_render.md` R191): `(norm(p) + 1) / 4`. -/
def panTheta (p : Nat) : Rat := (panNorm p + 1) / 4

/-- `θ(p)` in units of `π / 224`, which divides every angle of the table: `8 p` below the centre, `7 (p + 1)`
from there on (`panAngle_eq` of `Laws/Exact.lean`). -/
def panAngle (p : Fin 16) : Nat := (panTheta p * 224).num.toNat

/-- `PAN[p].left = cos θ(p)` (`43_voice_render.md` R192). -/
def panLeft (q : Params) (p : Fin 16) : Exact :=
  roundExact q.numerics (.panLeft p) (.cosine (panAngle p))

/-- `PAN[p].right = sin θ(p) = cos (π / 2 - θ(p))` (`43_voice_render.md` R192). -/
def panRight (q : Params) (p : Fin 16) : Exact :=
  roundExact q.numerics (.panRight p) (.cosine (112 - panAngle p))

/-! ### Narrowing -/

/-- The greatest `n + k` with `k < 2 ^ bits` and `(n + k) * y <= x`, for `n * y <= x`. -/
def quotientBits (x y : Exact) : (bits n : Nat) → Nat
  | 0, n => n
  | b + 1, n => quotientBits x y b (if x.lt (y.scale ((n + 2 ^ b : Nat) : Rat)) then n else n + 2 ^ b)

/-- `x / y` truncated toward zero, for `0 < y` and `|x| < 2 ^ 15 * y`. -/
def truncQuotient (x y : Exact) : Int :=
  if x.sign = -1 then -(quotientBits x.neg y 15 0 : Int) else quotientBits x y 15 0

/-- `Narrow(x / y)` (`47_output_limiter.md` R343): truncation toward zero. -/
def narrowExact (x y : Exact) : Half := BitVec.ofInt 16 (truncQuotient x y)

/-- The narrowing of an implementation, within full scale (log 17). -/
def narrowRounded (x : Exact) : Half := BitVec.ofInt 16 (clamp (Config.numNarrow x) (-32767) 32767)

end Sys2Proof.Machine
end

