-- ==== Sys2Proof/Machine/Ops.lean ====
section
/-! DEFINITION. The named operations over memory and registers that the meanings and the agent steps
share: sample RAM, voices and tracks, replies and output events, the free values, and the interrupt
procedures of `60_exceptions.md` R355, R356, R360.

The block takes no exception (R350): what stands in the place of "taking an exception" is the interrupt
request `checkIrq`, which saves nothing and changes nothing of the block (R364), and there is no return
(R365). -/

namespace Sys2Proof.Machine

/-! ### Sample RAM (`20_memory.md`) -/

/-- The written bytes stand in strictly rising order of address, all inside the 1 MB of RAM. -/
abbrev Memory.wf (m : Memory) : Prop :=
  m.Pairwise (fun c d => c.1 < d.1) ∧ ∀ c ∈ m, c.1 < Config.ramSize

/-- The byte written at an address, if any. -/
def Memory.find : Memory → Nat → Option Byte
  | [], _ => none
  | (k, v) :: m, a => if k = a then some v else Memory.find m a

/-- Memory with a byte written at an address. -/
def Memory.store : Memory → Nat → Byte → Memory
  | [], a, b => [(a, b)]
  | (k, v) :: m, a, b =>
    if a < k then (a, b) :: (k, v) :: m
    else if a = k then (a, b) :: m
    else (k, v) :: Memory.store m a b

/-- What an address that nothing has written reads as: the free power-on byte of `10_state.md` R46
(log 6). -/
def unwrittenByte (a : RamAddr) : Byte := Config.ramPowerOn a.toNat

/-- `RAM[a]`. -/
def State.ramByte (s : State) (a : RamAddr) : Byte := (s.ram.find a.toNat).getD (unwrittenByte a)

/-- `RAM[a] <- b`. -/
def State.writeRam (s : State) (a : RamAddr) (b : Byte) : State :=
  { s with ram := s.ram.store a.toNat b }

/-- `RAM[a + k] <- bytes[k]` for every `k`. -/
def State.writeBytes (s : State) (a : RamAddr) : List Byte → State
  | [] => s
  | b :: bs => State.writeBytes (s.writeRam a b) (a + 1) bs

/-- `RAM[a .. a + n - 1]`. -/
def State.readBytes (s : State) (a : RamAddr) : Nat → List Byte
  | 0 => []
  | n + 1 => s.ramByte a :: State.readBytes s (a + 1) n

/-! ### Voices and tracks (`10_state.md` R20, R21, R28) -/

/-- `V[v]`. -/
def State.voice (s : State) (v : Fin 32) : Voice := s.voices[v]

/-- `V[v] <- x`. -/
def State.setVoice (s : State) (v : Fin 32) (x : Voice) : State :=
  { s with voices := s.voices.set v x }

/-- `V[v].axis`. -/
def Voice.track (x : Voice) : Axis → Track
  | .wave => x.wave
  | .vol => x.vol

/-- `V[v].axis <- t`. -/
def Voice.setTrack (x : Voice) (axis : Axis) (t : Track) : Voice :=
  match axis with
  | .wave => { x with wave := t }
  | .vol => { x with vol := t }

/-- The current voice, `cur` of `44_voice_registers.md`. -/
def State.cur (s : State) : Voice := s.voice s.voiceIndex

/-- `cur <- x`. -/
def State.setCur (s : State) (x : Voice) : State := s.setVoice s.voiceIndex x

/-- `cur.wave <- t`. -/
def State.setCurWave (s : State) (t : Track) : State := s.setCur { s.cur with wave := t }

/-- `cur.vol <- t`. -/
def State.setCurVol (s : State) (t : Track) : State := s.setCur { s.cur with vol := t }

/-- The pending bitmask `P` of an axis (`40_track_advance.md` R130). -/
def State.pending (s : State) : Axis → Word
  | .wave => s.waveState
  | .vol => s.volState

/-- `P <- w`. -/
def State.setPending (s : State) (axis : Axis) (w : Word) : State :=
  match axis with
  | .wave => { s with waveState := w }
  | .vol => { s with volState := w }

/-! ### Replies, output events, free values -/

/-- A read delivers a byte to the host. -/
def State.answerByte (s : State) (b : Byte) : State := { s with reply := .byte b }

/-- A read delivers 16 bits to the host. -/
def State.answerHalf (s : State) (h : Half) : State := { s with reply := .half h }

/-- `emit e`. -/
def State.emit (s : State) (e : OutEvent) : State := { s with out := s.out ++ [e] }

/-- A free value has been taken: the next one is another (log 12). -/
def State.drawn (s : State) : State := { s with draws := s.draws + 1 }

/-! ### Interrupt requests (`60_exceptions.md`) -/

/-- `CheckIrq()` (R360): an enabled bit and an enabled line emit `IrqAssert`. -/
def State.checkIrq (s : State) : State :=
  if (s.irqStatus &&& irqGate s.irqEnabled != 0) && lineEnabled s.mixCtrl then
    s.emit (.irqAssert s.irqNumber)
  else s

/-- One iteration of `AdvanceCursor` (R356): `status + 1`, or 0 at `active_voices`. -/
def nextCursor (active : Nat) (c : Fin 32) : Fin 32 :=
  if h : c.val + 1 < 32 then if c.val + 1 < active then ⟨c.val + 1, h⟩ else 0 else 0

/-- At most `n` iterations of `AdvanceCursor`. -/
def seekCursor (total : Word) (active : Nat) : (n : Nat) → Fin 32 → Fin 32
  | 0, c => c
  | n + 1, c =>
    if total &&& voiceBit c = 0 then seekCursor total active n (nextCursor active c) else c

/-- `AdvanceCursor(total)` (R356). "The loop ends within `active_voices + 1` iterations", so 33 are
enough in every state in which its precondition holds (log 22). -/
def State.advanceCursor (s : State) (total : Word) : State :=
  { s with status := seekCursor total s.activeVoices 33 s.status }

/-- `CheckVoiceIrq()` (R355). -/
def State.checkVoiceIrq (s : State) : State :=
  let vm := s.volState &&& s.activeVoiceMask
  let wm := s.waveState &&& s.activeVoiceMask
  let t := ({ s with irqStatus := aggregated s.irqStatus vm wm }).checkIrq
  if vm ||| wm = 0 then t else t.advanceCursor (vm ||| wm)

/-- The pending bitmask after a control-byte write (`44_voice_registers.md` R211): the voice's bit is
forced on or cleared. -/
def controlPending (p : Word) (v : Fin 32) (b : Byte) : Word :=
  if forcesIrq b then p ||| voiceBit v else p &&& ~~~ voiceBit v

/-- `WriteCtrl(axis, b)` (`44_voice_registers.md` R211) on the current voice. -/
def State.writeCtrl (s : State) (axis : Axis) (b : Byte) : State :=
  let old := s.pending axis
  let new := controlPending old s.voiceIndex b
  let t := (s.setPending axis new).setCur
    (s.cur.setTrack axis { s.cur.track axis with state := controlFlags b })
  if new = old then t else t.checkVoiceIrq

/-- `ReadCtrl(axis)` (`44_voice_registers.md` R231) of the current voice. -/
def State.readCtrl (s : State) (axis : Axis) : Byte :=
  controlReadback (s.cur.track axis).state (s.pending axis &&& voiceBit s.voiceIndex != 0)

/-! ### Run states (`70_reset_and_hazards.md` R402 to R404) -/

/-- `Stop()` (R402). -/
def State.stop (s : State) : State :=
  { s with
    outputEnabled := false
    selectedRegister := 0
    registerData := 0
    voiceIndex := 0
    voiceSelected := false
    activeVoices := 0
    activeVoiceMask := 0
    irqStatus := 0
    irqEnabled := false
    dmaCtrl := 0
    dramAddr := 0
    mixCtrl := 0x0B#8
    shouldApply := false
    sampleCtrl := 0
    timerCtrl := 0
    peakLeft := .ofRat Config.peakSeed
    peakRight := .ofRat Config.peakSeed
    timer1 := { s.timer1 with counting := false }
    timer2 := { s.timer2 with counting := false } }

/-- A voice after `Prepare()` (R403), with the free wave position it draws. -/
def Voice.prepared (x : Voice) (wavePos : S32) : Voice :=
  { wave := { x.wave with state := 0x01#7, pos := wavePos }
    vol := { x.vol with state := 0x01#7, pos := ⟨0, 0⟩ }
    panPosition := 7 }

/-- A timer after `Prepare()` (R403). -/
def Timer.prepared : Timer :=
  { value := 0xFF#8, expired := true, masked := false, raiseIrq := false, counting := false }

/-- `Prepare()` (R403). The wave positions and the AdLib latch are free values (log 8, log 9). -/
def State.prepare (s : State) : State :=
  { s with
    voices := Vector.ofFn fun v => (s.voice v).prepared (Config.drawWavePos s.draws v)
    waveState := 0
    volState := 0
    status := 0
    timer1 := Timer.prepared
    timer2 := Timer.prepared
    adlibCommand := Config.drawAdlib s.draws
    draws := s.draws + 1 }

/-- `Begin()` (R404). -/
def State.begin (s : State) : State := { s with outputEnabled := true }

end Sys2Proof.Machine
end

