-- ==== Sys2Proof/Machine/Globals.lean ====
section
/-! DEFINITION. The device-global register commands (`45_global_registers.md` section 3 and, for the
timers, `60_exceptions.md` R373). `d` is `register_data` at the commit. -/

namespace Sys2Proof.Machine

/-- `ACTIVE_VOICES` (`45_global_registers.md` R280): the clamped count, its mask, and the `AudioRate`
event to the mixer (`47_output_limiter.md` R345). -/
def execActiveVoices (d : Half) (s : State) : Result :=
  .next (({ s with
    activeVoices := requestedVoices d
    activeVoiceMask := maskOf (requestedVoices d) } : State).emit (.audioRate (requestedVoices d)))

/-- `DMA_CTRL` write (`45_global_registers.md` R281): latches the byte, acknowledges the terminal-count
IRQ, schedules a transfer attempt if enabled. -/
def execDmaCtrl (d : Half) (s : State) : Result :=
  .next { s with
    dmaCtrl := dataByte d
    irqStatus := s.irqStatus &&& 0x7F#8
    dmaScheduled := dmaEnabled (dataByte d) || s.dmaScheduled }

/-- `DMA_ADDR` write (`45_global_registers.md` R282). -/
def execDmaAddr (d : Half) (s : State) : Result := .next { s with dmaAddr := d }

/-- `DRAM_ADDR_A` (`45_global_registers.md` R284): the low or the high part, by `DRAM_REG_ORDER`. -/
def execDramAddrA (d : Half) (s : State) : Result :=
  .next { s with
    dramAddr := match s.params.dramRegOrder with
      | .lswFirst => setDramLow s.dramAddr d
      | .msbFirst => setDramHigh s.dramAddr d }

/-- `DRAM_ADDR_B` (`45_global_registers.md` R285): the other part. -/
def execDramAddrB (d : Half) (s : State) : Result :=
  .next { s with
    dramAddr := match s.params.dramRegOrder with
      | .lswFirst => setDramHigh s.dramAddr d
      | .msbFirst => setDramLow s.dramAddr d }

/-- `TIMER_CTRL` write (`60_exceptions.md` R373): latches the byte; bits 2 and 3 are the `raise_irq` flags,
and a cleared one acknowledges its timer's bit; then `CheckIrq`. -/
def execTimerCtrl (d : Half) (s : State) : Result :=
  let b := dataByte d
  let keep1 : Byte := if b.getLsbD 2 then 0xFF#8 else ~~~ irqTimer1
  let keep2 : Byte := if b.getLsbD 3 then 0xFF#8 else ~~~ irqTimer2
  .next ({ s with
    timerCtrl := b
    timer1 := { s.timer1 with raiseIrq := b.getLsbD 2 }
    timer2 := { s.timer2 with raiseIrq := b.getLsbD 3 }
    irqStatus := s.irqStatus &&& keep1 &&& keep2 } : State).checkIrq

/-- `TIMER1_VALUE` write (`60_exceptions.md` R373). -/
def execTimer1Value (d : Half) (s : State) : Result :=
  .next { s with timer1 := { s.timer1 with value := dataByte d } }

/-- `TIMER2_VALUE` write (`60_exceptions.md` R373). -/
def execTimer2Value (d : Half) (s : State) : Result :=
  .next { s with timer2 := { s.timer2 with value := dataByte d } }

/-- `SAMPLE_CTRL` write (`45_global_registers.md` R287): a latch; bit 0 schedules a transfer attempt. -/
def execSampleCtrl (d : Half) (s : State) : Result :=
  .next { s with
    sampleCtrl := dataByte d
    dmaScheduled := (dataByte d).getLsbD 0 || s.dmaScheduled }

/-- The run-state action of `RUNTIME_CTRL` (`45_global_registers.md` R289). -/
def State.runAction (s : State) (run : Nat) : State :=
  if run = 0 then s.stop
  else if run = 1 then s.prepare
  else if 0 < s.activeVoices then s.begin
  else s

/-- `RUNTIME_CTRL` write (`45_global_registers.md` R289): the run-state action, then in every case
`irq_enabled <- D[10]`. -/
def execRuntimeCtrl (d : Half) (s : State) : Result :=
  .next { s.runAction (runState d) with irqEnabled := irqEnableBit d }

/-- `DMA_CTRL` read (`45_global_registers.md` R283): bit 6 of the byte is the terminal-count IRQ, which
the read acknowledges; then `CheckIrq`. -/
def execRdDmaCtrl (s : State) : Result :=
  .next (({ s with irqStatus := s.irqStatus &&& 0x7F#8 } : State).checkIrq.answerHalf
    (inHighByte ((s.dmaCtrl &&& 0xBF#8) ||| ((s.irqStatus &&& 0x80#8) >>> 1))))

/-- `DMA_ADDR` read (`45_global_registers.md` R288). -/
def execRdDmaAddr (s : State) : Result := .next (s.answerHalf s.dmaAddr)

/-- `TIMER_CTRL` read (`45_global_registers.md` R288). -/
def execRdTimerCtrl (s : State) : Result := .next (s.answerHalf (inHighByte s.timerCtrl))

/-- `SAMPLE_CTRL` read (`45_global_registers.md` R288). -/
def execRdSampleCtrl (s : State) : Result := .next (s.answerHalf (inHighByte s.sampleCtrl))

/-- `RD_VOICE_IRQ` (`45_global_registers.md` R292): reports the voice at the cursor, clears its two pending
bits and re-runs the aggregation. -/
def execRdVoiceIrq (s : State) : Result :=
  let m := voiceBit s.status
  .next (({ s with
    volState := s.volState &&& ~~~ m
    waveState := s.waveState &&& ~~~ m } : State).checkVoiceIrq.answerHalf
      (inHighByte (voiceIrqByte s.status (s.volState &&& m != 0) (s.waveState &&& m != 0))))

end Sys2Proof.Machine
end

