-- ==== Sys2Proof/Machine/VoiceReads.lean ====
section
/-! DEFINITION. The per-voice register read commands, ids `0x80` to `0x8D` (`44_voice_registers.md`
section 2). Each delivers a `u16` and changes nothing else. -/

namespace Sys2Proof.Machine

/-- The precondition of every voice register read (`44_voice_registers.md` R230): with no voice selected
the read delivers a fixed value. -/
def voiceRead (s : State) (noVoice r : Half) : Result :=
  .next (s.answerHalf (if s.voiceSelected then r else noVoice))

/-- `RD_WAVE_CTRL` (`44_voice_registers.md` R232): `ReadCtrl(wave) << 8`. -/
def execRdWaveCtrl (s : State) : Result :=
  voiceRead s 0x0300#16 (inHighByte (s.readCtrl .wave))

/-- `RD_WAVE_RATE` (`44_voice_registers.md` R233): the raw rate. -/
def execRdWaveRate (s : State) : Result :=
  voiceRead s 0 (s.cur.wave.rate)

/-- `RD_WAVE_START_MSW` (`44_voice_registers.md` R234): bits 31:16 of the wave start. -/
def execRdWaveStartMsw (s : State) : Result :=
  voiceRead s 0 (mswOf s.cur.wave.start)

/-- `RD_WAVE_START_LSW` (`44_voice_registers.md` R235): bits 15:0 of the wave start. -/
def execRdWaveStartLsw (s : State) : Result :=
  voiceRead s 0 (lswOf s.cur.wave.start)

/-- `RD_WAVE_END_MSW` (`44_voice_registers.md` R236): bits 31:16 of the wave end. -/
def execRdWaveEndMsw (s : State) : Result :=
  voiceRead s 0 (mswOf s.cur.wave.endAt)

/-- `RD_WAVE_END_LSW` (`44_voice_registers.md` R237): bits 15:0 of the wave end. -/
def execRdWaveEndLsw (s : State) : Result :=
  voiceRead s 0 (lswOf s.cur.wave.endAt)

/-- `RD_VOL_RATE` (`44_voice_registers.md` R238): the rate byte in bits 15:8. -/
def execRdVolRate (s : State) : Result :=
  voiceRead s 0 (inHighByte (s.cur.vol.rate.extractLsb' 0 8))

/-- `RD_VOL_START` (`44_voice_registers.md` R239): the inverse of `VOL_START`. -/
def execRdVolStart (s : State) : Result :=
  voiceRead s 0 (volBoundReadback s.cur.vol.start)

/-- `RD_VOL_END` (`44_voice_registers.md` R240): the inverse of `VOL_END`. -/
def execRdVolEnd (s : State) : Result :=
  voiceRead s 0 (volBoundReadback s.cur.vol.endAt)

/-- `RD_VOL_CURRENT` (`44_voice_registers.md` R241): `VolIndex(cur.vol.pos) << 4`. -/
def execRdVolCurrent (s : State) : Result :=
  voiceRead s 0 (BitVec.ofNat 16 (volIndex s.cur.vol.pos * 16))

/-- `RD_WAVE_POS_MSW` (`44_voice_registers.md` R242): bits 31:16 of the wave position. -/
def execRdWavePosMsw (s : State) : Result :=
  voiceRead s 0 (mswOf s.cur.wave.pos)

/-- `RD_WAVE_POS_LSW` (`44_voice_registers.md` R243): bits 15:0 of the wave position. -/
def execRdWavePosLsw (s : State) : Result :=
  voiceRead s 0 (lswOf s.cur.wave.pos)

/-- `RD_PAN` (`44_voice_registers.md` R244): `cur.pan_position << 8`. -/
def execRdPan (s : State) : Result :=
  voiceRead s 0 (inHighByte (BitVec.ofNat 8 s.cur.panPosition.val))

/-- `RD_VOL_CTRL` (`44_voice_registers.md` R245): `ReadCtrl(vol) << 8`. -/
def execRdVolCtrl (s : State) : Result :=
  voiceRead s 0x0300#16 (inHighByte (s.readCtrl .vol))

end Sys2Proof.Machine
end

