-- ==== Sys2Proof/Machine/VoiceWrites.lean ====
section
/-! DEFINITION. The per-voice register write commands, ids `0x00` to `0x0D` (`44_voice_registers.md`
section 1). `d` is `register_data` at the commit; each acts on the current voice. -/

namespace Sys2Proof.Machine

/-- The precondition of every voice register write (`44_voice_registers.md` R210): with no voice selected
the command changes nothing. -/
def voiceWrite (s t : State) : Result := .next (if s.voiceSelected then t else s)

/-- `WAVE_CTRL` (`44_voice_registers.md` R225): `WriteCtrl(wave, D[15:8])`. -/
def execWaveCtrl (d : Half) (s : State) : Result :=
  voiceWrite s (s.writeCtrl .wave (dataByte d))

/-- `WAVE_RATE` (`44_voice_registers.md` R212): the raw rate and the increment it gives. -/
def execWaveRate (d : Half) (s : State) : Result :=
  voiceWrite s (s.setCurWave { s.cur.wave with rate := d, inc := waveIncrement d })

/-- `WAVE_START_MSW` (`44_voice_registers.md` R213): `SetMsw(cur.wave.start, D)`. -/
def execWaveStartMsw (d : Half) (s : State) : Result :=
  voiceWrite s (s.setCurWave { s.cur.wave with start := setMsw s.cur.wave.start d })

/-- `WAVE_START_LSW` (`44_voice_registers.md` R214): `SetLsw(cur.wave.start, D)`. -/
def execWaveStartLsw (d : Half) (s : State) : Result :=
  voiceWrite s (s.setCurWave { s.cur.wave with start := setLsw s.cur.wave.start d })

/-- `WAVE_END_MSW` (`44_voice_registers.md` R215): `SetMsw(cur.wave.end, D)`. -/
def execWaveEndMsw (d : Half) (s : State) : Result :=
  voiceWrite s (s.setCurWave { s.cur.wave with endAt := setMsw s.cur.wave.endAt d })

/-- `WAVE_END_LSW` (`44_voice_registers.md` R216): `SetLsw(cur.wave.end, D)`. -/
def execWaveEndLsw (d : Half) (s : State) : Result :=
  voiceWrite s (s.setCurWave { s.cur.wave with endAt := setLsw s.cur.wave.endAt d })

/-- `VOL_RATE` (`44_voice_registers.md` R217): the rate byte, zero-extended, and `VolInc` of it. -/
def execVolRate (d : Half) (s : State) : Result :=
  voiceWrite s (s.setCurVol
    { s.cur.vol with rate := (dataByte d).setWidth 16, inc := volInc (dataByte d) })

/-- `VOL_START` (`44_voice_registers.md` R218): `cur.vol.start <- (b << 4) * 512`. -/
def execVolStart (d : Half) (s : State) : Result :=
  voiceWrite s (s.setCurVol { s.cur.vol with start := volBound (dataByte d) })

/-- `VOL_END` (`44_voice_registers.md` R219): `cur.vol.end <- (b << 4) * 512`. -/
def execVolEnd (d : Half) (s : State) : Result :=
  voiceWrite s (s.setCurVol { s.cur.vol with endAt := volBound (dataByte d) })

/-- `VOL_CURRENT` (`44_voice_registers.md` R220): `cur.vol.pos <- D[15:4] * 512`. -/
def execVolCurrent (d : Half) (s : State) : Result :=
  voiceWrite s (s.setCurVol { s.cur.vol with pos := volCurrentOf d })

/-- `WAVE_POS_MSW` (`44_voice_registers.md` R221): `SetMsw(cur.wave.pos, D)`. -/
def execWavePosMsw (d : Half) (s : State) : Result :=
  voiceWrite s (s.setCurWave { s.cur.wave with pos := setMsw s.cur.wave.pos d })

/-- `WAVE_POS_LSW` (`44_voice_registers.md` R222): `SetLsw(cur.wave.pos, D)`. -/
def execWavePosLsw (d : Half) (s : State) : Result :=
  voiceWrite s (s.setCurWave { s.cur.wave with pos := setLsw s.cur.wave.pos d })

/-- `PAN` (`44_voice_registers.md` R223): the pan position under `PAN_WRITE_MODE`. -/
def execPan (d : Half) (s : State) : Result :=
  voiceWrite s (s.setCur { s.cur with panPosition := panValue s.params.panWriteMode (dataByte d) })

/-- `VOL_CTRL` (`44_voice_registers.md` R224): `WriteCtrl(vol, D[15:8])`. -/
def execVolCtrl (d : Half) (s : State) : Result :=
  voiceWrite s (s.writeCtrl .vol (dataByte d))

end Sys2Proof.Machine
end

