-- ==== Sys2Proof/Machine/RegFile.lean ====
section
/-! DEFINITION. The register dispatch (`45_global_registers.md` R277 to R279): what a commit and a
data-port read execute, by `selected_register`. -/

namespace Sys2Proof.Machine

/-- `RegWrite()` (`45_global_registers.md` R277); an id with no write rule changes nothing (R279). -/
def regWrite (s : State) : Result :=
  match s.selectedRegister.toNat with
  | 0x00 => execWaveCtrl s.registerData s
  | 0x01 => execWaveRate s.registerData s
  | 0x02 => execWaveStartMsw s.registerData s
  | 0x03 => execWaveStartLsw s.registerData s
  | 0x04 => execWaveEndMsw s.registerData s
  | 0x05 => execWaveEndLsw s.registerData s
  | 0x06 => execVolRate s.registerData s
  | 0x07 => execVolStart s.registerData s
  | 0x08 => execVolEnd s.registerData s
  | 0x09 => execVolCurrent s.registerData s
  | 0x0A => execWavePosMsw s.registerData s
  | 0x0B => execWavePosLsw s.registerData s
  | 0x0C => execPan s.registerData s
  | 0x0D => execVolCtrl s.registerData s
  | 0x0E => execActiveVoices s.registerData s
  | 0x41 => execDmaCtrl s.registerData s
  | 0x42 => execDmaAddr s.registerData s
  | 0x43 => execDramAddrA s.registerData s
  | 0x44 => execDramAddrB s.registerData s
  | 0x45 => execTimerCtrl s.registerData s
  | 0x46 => execTimer1Value s.registerData s
  | 0x47 => execTimer2Value s.registerData s
  | 0x49 => execSampleCtrl s.registerData s
  | 0x4C => execRuntimeCtrl s.registerData s
  | _ => .next s

/-- `RegRead()` (`45_global_registers.md` R278), which delivers its `u16` as the reply; an id with no read
rule reads `register_data` (R279). -/
def regRead (s : State) : Result :=
  match s.selectedRegister.toNat with
  | 0x41 => execRdDmaCtrl s
  | 0x42 => execRdDmaAddr s
  | 0x45 => execRdTimerCtrl s
  | 0x49 => execRdSampleCtrl s
  | 0x80 => execRdWaveCtrl s
  | 0x81 => execRdWaveRate s
  | 0x82 => execRdWaveStartMsw s
  | 0x83 => execRdWaveStartLsw s
  | 0x84 => execRdWaveEndMsw s
  | 0x85 => execRdWaveEndLsw s
  | 0x86 => execRdVolRate s
  | 0x87 => execRdVolStart s
  | 0x88 => execRdVolEnd s
  | 0x89 => execRdVolCurrent s
  | 0x8A => execRdWavePosMsw s
  | 0x8B => execRdWavePosLsw s
  | 0x8C => execRdPan s
  | 0x8D => execRdVolCtrl s
  | 0x8F => execRdVoiceIrq s
  | _ => .next (s.answerHalf s.registerData)

/-- The low byte of a delivered `u16` (`30_encoding.md` R99). -/
def Reply.low : Reply → Reply
  | .half h => .byte (lowByte h)
  | .byte b => .byte b
  | .none => .none

/-- The high byte of a delivered `u16` (`30_encoding.md` R99). -/
def Reply.high : Reply → Reply
  | .half h => .byte (highByte h)
  | .byte b => .byte b
  | .none => .none

/-- A result with the part of the reply that the port delivers. -/
def withReply (f : Reply → Reply) (r : Result) : Result :=
  match r with
  | .next t => .next { t with reply := f t.reply }
  | .fault e => .fault e
  | .refused e => .refused e

end Sys2Proof.Machine
end

