-- ==== Sys2Proof/Machine/Ports.lean ====
section
/-! DEFINITION. The port commands (`45_global_registers.md` section 1 and, for the timers,
`60_exceptions.md` R372). `val` is the data of a port write. -/

namespace Sys2Proof.Machine

/-- `OUTB_MIX_CTRL` (`45_global_registers.md` R261). -/
def execOutbMixCtrl (val : Half) (s : State) : Result :=
  .next { s with mixCtrl := byteOf val, shouldApply := true }

/-- `INB_IRQ_STATUS` (`45_global_registers.md` R262). -/
def execInbIrqStatus (s : State) : Result := .next (s.answerByte s.irqStatus)

/-- `INB_TIMER_STATUS` (`45_global_registers.md` R263). -/
def execInbTimerStatus (s : State) : Result :=
  .next (s.answerByte (timerStatus s.timer1.expired s.timer2.expired s.irqStatus))

/-- `OUTB_ADLIB_CMD` (`45_global_registers.md` R263). -/
def execOutbAdlibCmd (val : Half) (s : State) : Result :=
  .next { s with adlibCommand := byteOf val }

/-- `OUTB_TIMER_CMD` (`60_exceptions.md` R372): bit 7 clears both expired flags and does nothing else;
otherwise the mask and start bits are taken. -/
def execOutbTimerCmd (val : Half) (s : State) : Result :=
  let b := byteOf val
  .next (if b.getLsbD 7 then
    { s with
      timer1 := { s.timer1 with expired := false }
      timer2 := { s.timer2 with expired := false } }
  else
    { s with
      timer1 := { s.timer1 with masked := b.getLsbD 6, counting := b.getLsbD 0 }
      timer2 := { s.timer2 with masked := b.getLsbD 5, counting := b.getLsbD 1 } })

/-- `INB_ADLIB_CMD_RB` (`45_global_registers.md` R265). -/
def execInbAdlibCmdRb (s : State) : Result := .next (s.answerByte s.adlibCommand)

/-- The setting a channel select changes once it is applied (`45_global_registers.md` R264): "none" in a
table leaves it. -/
def State.selectChannel (s : State) (i : BitVec 3) : State :=
  if selectsIrq s.mixCtrl then { s with irqNumber := (irqTable i).getD s.irqNumber }
  else { s with dmaChannel := (dmaTable i).getD s.dmaChannel }

/-- `OUTB_CHAN_SELECT` (`45_global_registers.md` R264): ignored unless armed; disarms itself. -/
def execOutbChanSelect (val : Half) (s : State) : Result :=
  .next (if s.shouldApply then { s.selectChannel (channelIndex val) with shouldApply := false } else s)

/-- `OUTB_VOICE_INDEX` (`45_global_registers.md` R266). -/
def execOutbVoiceIndex (val : Half) (s : State) : Result :=
  .next { s with voiceIndex := voiceNumber val, voiceSelected := true }

/-- `INB_VOICE_INDEX` (`45_global_registers.md` R267). -/
def execInbVoiceIndex (s : State) : Result :=
  .next (s.answerByte (BitVec.ofNat 8 s.voiceIndex.val))

/-- `OUTB_REG_SELECT` (`45_global_registers.md` R268): selects and clears the data latch. -/
def execOutbRegSelect (val : Half) (s : State) : Result :=
  .next { s with selectedRegister := byteOf val, registerData := 0 }

/-- `INB_REG_SELECT` (`45_global_registers.md` R269). -/
def execInbRegSelect (s : State) : Result := .next (s.answerByte s.selectedRegister)

/-- `OUTB_REG_DATA_LO` (`45_global_registers.md` R272): latches the low byte, executes nothing. -/
def execOutbRegDataLo (val : Half) (s : State) : Result :=
  .next { s with registerData := joinBytes (highByte s.registerData) (byteOf val) }

/-- `OUTW_REG_DATA` (`45_global_registers.md` R273): latches 16 bits and commits. -/
def execOutwRegData (val : Half) (s : State) : Result := regWrite { s with registerData := val }

/-- `OUTB_REG_DATA_HI` (`45_global_registers.md` R274): latches the high byte and commits. -/
def execOutbRegDataHi (val : Half) (s : State) : Result :=
  regWrite { s with registerData := joinBytes (byteOf val) (lowByte s.registerData) }

/-- `INB_REG_DATA_LO` (`45_global_registers.md` R275): one register read, of which the port delivers
bits 7:0. -/
def execInbRegDataLo (s : State) : Result := withReply Reply.low (regRead s)

/-- `INW_REG_DATA` (`45_global_registers.md` R275): one register read, delivered whole. -/
def execInwRegData (s : State) : Result := regRead s

/-- `INB_REG_DATA_HI` (`45_global_registers.md` R275): one register read, of which the port delivers
bits 15:8. -/
def execInbRegDataHi (s : State) : Result := withReply Reply.high (regRead s)

/-- `INB_DRAM_DATA`, peek (`45_global_registers.md` R270). -/
def execInbDramData (s : State) : Result := .next (s.answerByte (s.ramByte s.dramAddr))

/-- `OUTB_DRAM_DATA`, poke (`45_global_registers.md` R271). -/
def execOutbDramData (val : Half) (s : State) : Result := .next (s.writeRam s.dramAddr (byteOf val))

/-- What the step does with a command that is no row of the opcode table (`45_global_registers.md` R276,
R279): a write changes nothing, an 8-bit read delivers `0xFF`, an unknown register reads
`register_data`. The 16 bits of an unlisted 16-bit read are free (log 11). -/
def runRejected (r : Reject) (s : State) : Result :=
  match r with
  | .unlistedWrite => .next s
  | .unlistedRead8 => .next (s.answerByte 0xFF#8)
  | .unlistedRead16 => .next (s.drawn.answerHalf (Config.drawOpenBus s.draws))
  | .wideAccess => .refused .wideAccess
  | .unknownRegisterWrite => .next s
  | .unknownRegisterRead => .next (s.answerHalf s.registerData)
  | .malformed => .refused .malformedCommand

end Sys2Proof.Machine
end

