-- ==== Sys2Proof/Machine/Dispatch.lean ====
section
/-! DEFINITION. The dispatch of host commands: one arm per constructor of `Instr`. -/

namespace Sys2Proof.Machine

/-- What a host command does to the state. -/
def exec (i : Instr) (s : State) : Host.Outcome State Fault Refusal :=
  match i with
  | .outbMixCtrl val => Sys2Proof.Machine.execOutbMixCtrl val s
  | .inbIrqStatus => Sys2Proof.Machine.execInbIrqStatus s
  | .inbTimerStatus => Sys2Proof.Machine.execInbTimerStatus s
  | .outbAdlibCmd val => Sys2Proof.Machine.execOutbAdlibCmd val s
  | .outbTimerCmd val => Sys2Proof.Machine.execOutbTimerCmd val s
  | .inbAdlibCmdRb => Sys2Proof.Machine.execInbAdlibCmdRb s
  | .outbChanSelect val => Sys2Proof.Machine.execOutbChanSelect val s
  | .outbVoiceIndex val => Sys2Proof.Machine.execOutbVoiceIndex val s
  | .inbVoiceIndex => Sys2Proof.Machine.execInbVoiceIndex s
  | .outbRegSelect val => Sys2Proof.Machine.execOutbRegSelect val s
  | .inbRegSelect => Sys2Proof.Machine.execInbRegSelect s
  | .outbRegDataLo val => Sys2Proof.Machine.execOutbRegDataLo val s
  | .outwRegData val => Sys2Proof.Machine.execOutwRegData val s
  | .outbRegDataHi val => Sys2Proof.Machine.execOutbRegDataHi val s
  | .inbRegDataLo => Sys2Proof.Machine.execInbRegDataLo s
  | .inwRegData => Sys2Proof.Machine.execInwRegData s
  | .inbRegDataHi => Sys2Proof.Machine.execInbRegDataHi s
  | .inbDramData => Sys2Proof.Machine.execInbDramData s
  | .outbDramData val => Sys2Proof.Machine.execOutbDramData val s
  | .waveCtrl d => Sys2Proof.Machine.execWaveCtrl d s
  | .waveRate d => Sys2Proof.Machine.execWaveRate d s
  | .waveStartMsw d => Sys2Proof.Machine.execWaveStartMsw d s
  | .waveStartLsw d => Sys2Proof.Machine.execWaveStartLsw d s
  | .waveEndMsw d => Sys2Proof.Machine.execWaveEndMsw d s
  | .waveEndLsw d => Sys2Proof.Machine.execWaveEndLsw d s
  | .volRate d => Sys2Proof.Machine.execVolRate d s
  | .volStart d => Sys2Proof.Machine.execVolStart d s
  | .volEnd d => Sys2Proof.Machine.execVolEnd d s
  | .volCurrent d => Sys2Proof.Machine.execVolCurrent d s
  | .wavePosMsw d => Sys2Proof.Machine.execWavePosMsw d s
  | .wavePosLsw d => Sys2Proof.Machine.execWavePosLsw d s
  | .pan d => Sys2Proof.Machine.execPan d s
  | .volCtrl d => Sys2Proof.Machine.execVolCtrl d s
  | .activeVoices d => Sys2Proof.Machine.execActiveVoices d s
  | .dmaCtrl d => Sys2Proof.Machine.execDmaCtrl d s
  | .dmaAddr d => Sys2Proof.Machine.execDmaAddr d s
  | .dramAddrA d => Sys2Proof.Machine.execDramAddrA d s
  | .dramAddrB d => Sys2Proof.Machine.execDramAddrB d s
  | .timerCtrl d => Sys2Proof.Machine.execTimerCtrl d s
  | .timer1Value d => Sys2Proof.Machine.execTimer1Value d s
  | .timer2Value d => Sys2Proof.Machine.execTimer2Value d s
  | .sampleCtrl d => Sys2Proof.Machine.execSampleCtrl d s
  | .runtimeCtrl d => Sys2Proof.Machine.execRuntimeCtrl d s
  | .rdDmaCtrl => Sys2Proof.Machine.execRdDmaCtrl s
  | .rdDmaAddr => Sys2Proof.Machine.execRdDmaAddr s
  | .rdTimerCtrl => Sys2Proof.Machine.execRdTimerCtrl s
  | .rdSampleCtrl => Sys2Proof.Machine.execRdSampleCtrl s
  | .rdWaveCtrl => Sys2Proof.Machine.execRdWaveCtrl s
  | .rdWaveRate => Sys2Proof.Machine.execRdWaveRate s
  | .rdWaveStartMsw => Sys2Proof.Machine.execRdWaveStartMsw s
  | .rdWaveStartLsw => Sys2Proof.Machine.execRdWaveStartLsw s
  | .rdWaveEndMsw => Sys2Proof.Machine.execRdWaveEndMsw s
  | .rdWaveEndLsw => Sys2Proof.Machine.execRdWaveEndLsw s
  | .rdVolRate => Sys2Proof.Machine.execRdVolRate s
  | .rdVolStart => Sys2Proof.Machine.execRdVolStart s
  | .rdVolEnd => Sys2Proof.Machine.execRdVolEnd s
  | .rdVolCurrent => Sys2Proof.Machine.execRdVolCurrent s
  | .rdWavePosMsw => Sys2Proof.Machine.execRdWavePosMsw s
  | .rdWavePosLsw => Sys2Proof.Machine.execRdWavePosLsw s
  | .rdPan => Sys2Proof.Machine.execRdPan s
  | .rdVolCtrl => Sys2Proof.Machine.execRdVolCtrl s
  | .rdVoiceIrq => Sys2Proof.Machine.execRdVoiceIrq s

end Sys2Proof.Machine
end

