-- ==== Sys2Proof/Machine/Dma.lean ====
section
/-! DEFINITION. The DMA RAM bridge (`46_dma.md`). -/

namespace Sys2Proof.Machine

/-- A sample byte with its sign flipped (`46_dma.md` R315). -/
def flipSign (b : Byte) : Byte := b ^^^ 0x80#8

/-- The bytes of an upload as `Convert` leaves them (`46_dma.md` R315): every byte flipped, or with
16-bit samples (`pcm16`) the bytes at odd offsets; `odd` says whether the list starts at one. -/
def converted (pcm16 : Bool) : (odd : Bool) → List Byte → List Byte
  | _, [] => []
  | odd, b :: bs => (if !pcm16 || odd then flipSign b else b) :: converted pcm16 (!odd) bs

/-- The bytes an upload leaves in RAM (`46_dma.md` R313): converted if `DMA_FLIP`. -/
def uploaded (ctrl : Byte) (bytes : List Byte) : List Byte :=
  if dmaFlip ctrl then converted (dmaPcm16 ctrl) false bytes else bytes

/-- `Finish()` (`46_dma.md` R316): the terminal-count IRQ ends the chain, otherwise the next attempt stays
scheduled. -/
def State.dmaFinish (s : State) : State :=
  if dmaTcIrq s.dmaCtrl then
    { ({ s with irqStatus := s.irqStatus ||| irqDma } : State).checkIrq with dmaScheduled := false }
  else { s with dmaScheduled := true }

/-- `Transfer()` (`46_dma.md` R313, R314) with the host channel `dma_channel`, which moves `bytes`. -/
def dmaTransfer (bytes : List Byte) (s : State) : Result :=
  let base := dmaBase s.dmaCtrl s.dmaChannel s.dmaAddr
  if Config.ramSize < base.toNat + bytes.length then .fault .dmaRange
  else if dmaDownload s.dmaCtrl then
    .next ((s.emit (.hostWrite s.dmaChannel (s.readBytes base bytes.length))).dmaFinish)
  else .next ((s.writeBytes base (uploaded s.dmaCtrl bytes)).dmaFinish)

/-- The `DMA` step (`46_dma.md` R311, R312), enabled when `dma_scheduled`; not enabled, nothing happens
(log 1). Of the host's channels the one of number `dma_channel` takes part; masked, or with the bridge
disabled, it performs nothing and the chain ends. -/
def dmaStep (channels : Vector HostChannel 8) (s : State) : Result :=
  if s.dmaScheduled then
    let chan := channels[s.dmaChannel]
    if chan.masked || !dmaEnabled s.dmaCtrl then .next { s with dmaScheduled := false }
    else dmaTransfer chan.bytes s
  else .next s

end Sys2Proof.Machine
end

