-- ==== Sys2Proof/Machine/Limiter.lean ====
section
/-! DEFINITION. The output stage and soft limiter (`47_output_limiter.md` R340 to R345). -/

namespace Sys2Proof.Machine

/-- The running peak of one channel after the attack of a batch (`47_output_limiter.md` R342, part 1). -/
def attack (peak : Exact) : List Exact → Exact
  | [] => peak
  | x :: xs => attack (peak.max x.abs) xs

/-- Whether a peak is above `FULL_SCALE`. -/
def overFullScale (peak : Exact) : Bool := (Exact.ofRat Config.fullScale).lt peak

/-- One channel of a frame on the direct path, `Narrow(x)` (`47_output_limiter.md` R342, part 2). -/
def direct (n : Numerics) (x : Exact) : Half :=
  match n with
  | .exact => narrowExact x (.ofRat 1)
  | .implementation => narrowRounded x

/-- One channel of a frame on the limited path, `Narrow(x * min(1, FULL_SCALE / peak))`
(`47_output_limiter.md` R342, part 3). -/
def limited (n : Numerics) (peak x : Exact) : Half :=
  match n with
  | .exact =>
    if overFullScale peak then narrowExact (x.scale Config.fullScale) peak else narrowExact x (.ofRat 1)
  | .implementation =>
    narrowRounded (.ofRat (Config.numRound .limitScale (x.scale (min 1 (Config.numFactor peak)))))

/-- `LIMIT_RELEASE` (`47_output_limiter.md` R344), taken from a peak once per `SEQ` step. -/
def limitRelease (p : Params) : Exact := p.limitRelease.number .limitRelease

/-- The peak after the release of the limited path (`47_output_limiter.md` R342, part 4). -/
def released (p : Params) (peak : Exact) : Exact :=
  if overFullScale peak then roundExact p.numerics .release (peak.sub (limitRelease p)) else peak

/-- The frames the sink is handed on the direct path. -/
def directFrames (n : Numerics) (acc : List Frame) : List (Half × Half) :=
  acc.map fun f => (direct n f.left, direct n f.right)

/-- The frames the sink is handed on the limited path, under the peaks of the two channels. -/
def limitedFrames (n : Numerics) (pl pr : Exact) (acc : List Frame) : List (Half × Half) :=
  acc.map fun f => (limited n pl f.left, limited n pr f.right)

/-- `Output(ACC, N)` (`47_output_limiter.md` R342): consumes the accumulator, updates the peaks and pushes
the batch to the audio sink. -/
def State.output (s : State) : State :=
  let pl := attack s.peakLeft (s.acc.map Frame.left)
  let pr := attack s.peakRight (s.acc.map Frame.right)
  let n := s.params.numerics
  if overFullScale pl || overFullScale pr then
    ({ s with
      acc := []
      peakLeft := released s.params pl
      peakRight := released s.params pr } : State).emit
        (.audioPush (limitedFrames n pl pr s.acc))
  else
    ({ s with acc := [], peakLeft := pl, peakRight := pr } : State).emit
      (.audioPush (directFrames n s.acc))

end Sys2Proof.Machine
end

