-- ==== Sys2Proof/Machine/Track.lean ====
section
/-! DEFINITION. The advance of a control track (`40_track_advance.md`): one step of the wave position or
of the volume ramp, with its loop, bounce, stop and rollover continuations. -/

namespace Sys2Proof.Machine

/-- Whether an integer is an `s32` (`00_scope.md` R13). -/
def fitsS32 (x : Int) : Bool := decide (-2147483648 ≤ x) && decide (x ≤ 2147483647)

/-- A computed position as an `s32`, or `fault(track_overflow)` (`00_scope.md` R13). -/
def storeS32 (x : Int) : Except Fault S32 :=
  if fitsS32 x then .ok (S32.ofInt x) else .error .trackOverflow

/-- `stepped` (`40_track_advance.md` R133): the position one increment on, an unbounded integer. -/
def Track.stepped (t : Track) : Int :=
  if t.decreasing then t.pos.toInt - t.inc.toInt else t.pos.toInt + t.inc.toInt

/-- `remaining` (`40_track_advance.md` R133): the overshoot past the boundary in the direction of
travel, an unbounded integer. -/
def Track.remaining (t : Track) : Int :=
  if t.decreasing then t.start.toInt - t.stepped else t.stepped - t.endAt.toInt

/-- Where a looping track lies after its boundary (`40_track_advance.md` R138); `f` are its flags after
the turn. -/
def Track.wrapped (t : Track) (f : TrackFlags) : Int :=
  if ({ t with state := f } : Track).decreasing then t.endAt.toInt - t.remaining
  else t.start.toInt + t.remaining

/-- A track stopped at its boundary (`40_track_advance.md` R137). -/
def Track.stopped (t : Track) : Track :=
  { t with state := stoppedFlags t.state, pos := if t.decreasing then t.start else t.endAt }

/-- A track that goes on from position `x` with flags `f`, if `x` is an `s32`. -/
def Track.moved (t : Track) (f : TrackFlags) (x : Int) : Except Fault Track :=
  match storeS32 x with
  | .ok p => .ok { t with pos := p, state := f }
  | .error e => .error e

/-- Where a track that is not disabled goes in one advance (`40_track_advance.md` R134, R136 to R138).
A `stepped` outside `s32` faults whichever continuation applies (log 13). -/
def Track.next (t : Track) (suppress : Bool) : Except Fault Track :=
  match storeS32 t.stepped with
  | .error e => .error e
  | .ok p =>
    if t.remaining < 0 then .ok { t with pos := p }
    else if suppress then .ok { t with pos := p }
    else if t.loops then t.moved (turnedFlags t) (t.wrapped (turnedFlags t))
    else .ok t.stopped

/-- Whether an advance of a track that is not disabled sets the pending bit (`40_track_advance.md`
R135). -/
def Track.signals (t : Track) : Bool := decide (0 ≤ t.remaining) && t.raisesIrq

/-- `P` after an advance of voice `v` (`40_track_advance.md` R135). -/
def signalled (p : Word) (v : Fin 32) (raised : Bool) : Word :=
  if raised then p ||| voiceBit v else p

/-- `Advance(v, axis, suppress)` (`40_track_advance.md` R130 to R138): the position before the step, and
the state after it. A disabled track does not move (R132). -/
def State.advance (s : State) (v : Fin 32) (axis : Axis) (suppress : Bool) :
    Except Fault (S32 × State) :=
  let t := (s.voice v).track axis
  if t.disabled then .ok (t.pos, s)
  else
    match t.next suppress with
    | .error e => .error e
    | .ok t' =>
      .ok (t.pos,
        (s.setVoice v ((s.voice v).setTrack axis t')).setPending axis
          (signalled (s.pending axis) v t.signals))

end Sys2Proof.Machine
end

