-- ==== Sys2Proof/Machine/Seq.lean ====
section
/-! DEFINITION. The voice engine: sample fetch and interpolation (`41_sample_fetch.md`), the volume scalar
(`42_volume.md`), one voice's frame and the `SEQ` agent (`43_voice_render.md`). -/

namespace Sys2Proof.Machine

/-! ### Sample fetch -/

/-- `Read8(a)` (`41_sample_fetch.md` R151). -/
def State.read8 (s : State) (a : Nat) : Int := (s.ramByte (addr8 a)).toInt * 256

/-- `Read16(a)` (`41_sample_fetch.md` R152): little-endian, the second index reduced modulo `2^20`. -/
def State.read16 (s : State) (a : Nat) : Int :=
  let i := addr16 s.params a
  (joinBytes (s.ramByte (i + 1)) (s.ramByte i)).toInt

/-- The sample at an address, by the width of the voice (`41_sample_fetch.md` R150). -/
def State.readSample (s : State) (t : Track) (a : Nat) : Int :=
  if t.bit16 then s.read16 a else s.read8 a

/-- `Interp(v, p)` for `p >= 0` (`41_sample_fetch.md` R153, R154); `t` is the wave track of the voice. -/
def State.interp (s : State) (t : Track) (p : Nat) : Exact :=
  let addr := p / 512
  let frac := p % 512
  let s0 := s.readSample t addr
  if t.inc.toInt < 512 ∧ frac ≠ 0 then
    let s1 := s.readSample t (addr + 1)
    roundExact s.params.numerics .interp (.ofRat (s0 + ((s1 - s0) * (frac : Int) : Int) / 512))
  else .ofRat s0

/-- The free sample of a negative position, a real of the 16-bit range (`41_sample_fetch.md` R155, log 10). -/
def freeSample (n : Nat) : Exact := .power (.sample n) 1

/-- The sample of voice `v` at the wave position `p`, and the state with the draw it may take
(`41_sample_fetch.md` R154, R155). -/
def State.sampleAt (s : State) (v : Fin 32) (p : S32) : Exact × State :=
  if p.toInt < 0 then (freeSample s.draws, s.drawn) else (s.interp (s.voice v).wave p.toInt.toNat, s)

/-- `GetSample(v)` (`41_sample_fetch.md` R156): advances the wave track, samples at the position before. -/
def State.getSample (s : State) (v : Fin 32) : Except Fault (Exact × State) :=
  match s.advance v .wave (s.voice v).rollover with
  | .error e => .error e
  | .ok (p, t) => .ok (t.sampleAt v p)

/-- `PopVolScalar(v)` (`42_volume.md` R174): advances the volume track, scalar of the position before. -/
def State.popVolScalar (s : State) (v : Fin 32) : Except Fault (Exact × State) :=
  match s.advance v .vol false with
  | .error e => .error e
  | .ok (p, t) => .ok (volEntry s.params (volIndex p), t)

/-! ### One voice, one frame -/

/-- A frame of `ACC` with a voice's scaled sample `x` panned and added (`43_voice_render.md` R194). -/
def Frame.add (f : Frame) (q : Params) (pos : Fin 16) (x : Exact) : Frame :=
  let n := q.numerics
  { left := roundExact n .accumulate (f.left.add (roundExact n .pan ((panLeft q pos).mul x)))
    right := roundExact n .accumulate (f.right.add (roundExact n .pan ((panRight q pos).mul x))) }

/-- `ACC[f] <- ...` (`43_voice_render.md` R194). -/
def State.accumulate (s : State) (f : Nat) (pos : Fin 16) (x : Exact) : State :=
  { s with acc := s.acc.modify f fun a => a.add s.params pos x }

/-- `VoiceFrame(v, f)` (`43_voice_render.md` R194, R197, R198). -/
def State.voiceFrame (s : State) (v : Fin 32) (f : Nat) : Except Fault State :=
  if (s.voice v).silent then .ok s
  else
    match s.getSample v with
    | .error e => .error e
    | .ok (sample, t) =>
      match t.popVolScalar v with
      | .error e => .error e
      | .ok (gain, u) =>
        .ok (u.accumulate f (u.voice v).panPosition (roundExact u.params.numerics .gain (sample.mul gain)))

/-! ### The sequencer -/

/-- Frames `0 .. n - 1` of voice `v` (`43_voice_render.md` R196, inner loop). -/
def State.voiceBatch (s : State) (v : Fin 32) : Nat → Except Fault State
  | 0 => .ok s
  | n + 1 =>
    match s.voiceBatch v n with
    | .error e => .error e
    | .ok t => t.voiceFrame v n

/-- Voices `0 .. k - 1` (`43_voice_render.md` R196, outer loop); there are 32. -/
def State.voicesBatch (s : State) (n : Nat) : Nat → Except Fault State
  | 0 => .ok s
  | k + 1 =>
    match s.voicesBatch n k with
    | .error e => .error e
    | .ok t => if h : k < 32 then t.voiceBatch ⟨k, h⟩ n else .ok t

/-- The `SEQ` step for `n` frames (`43_voice_render.md` R196), enabled when `output_enabled` (R195); not
enabled, nothing happens (log 1). -/
def seqStep (n : Nat) (s : State) : Result :=
  if s.outputEnabled then
    match ({ s with acc := List.replicate n ⟨.zero, .zero⟩ } : State).voicesBatch n s.activeVoices with
    | .error e => .fault e
    | .ok t => .next t.output.checkVoiceIrq
  else .next s

end Sys2Proof.Machine
end

