-- ==== Sys2Proof/Machine/Timers.lean ====
section
/-! DEFINITION. The timer expiries (`60_exceptions.md` R370, R371). -/

namespace Sys2Proof.Machine

/-- A timer after an expiry: expired, unless masked. -/
def Timer.expire (t : Timer) : Timer := if t.masked then t else { t with expired := true }

/-- The interrupt part of an expiry: sets the timer's bit of `irq_status` and re-checks, if configured to
raise it. -/
def State.timerIrq (s : State) (raise : Bool) (bit : Byte) : State :=
  if raise then ({ s with irqStatus := s.irqStatus ||| bit } : State).checkIrq else s

/-- The `TIMER1` step, enabled when timer 1 is counting; not enabled, nothing happens (log 1). -/
def timer1Step (s : State) : Result :=
  .next (if s.timer1.counting then
    ({ s with timer1 := s.timer1.expire } : State).timerIrq s.timer1.raiseIrq irqTimer1
  else s)

/-- The `TIMER2` step, enabled when timer 2 is counting; not enabled, nothing happens (log 1). -/
def timer2Step (s : State) : Result :=
  .next (if s.timer2.counting then
    ({ s with timer2 := s.timer2.expire } : State).timerIrq s.timer2.raiseIrq irqTimer2
  else s)

end Sys2Proof.Machine
end

