-- ==== Sys2Proof/Machine/Agents.lean ====
section
/-! DEFINITION. What one entry of the inbox does: the agent it names takes its step (`00_scope.md` R8). -/

namespace Sys2Proof.Machine

/-- A decoded command runs; one that is no row of the opcode table has the effect of `runRejected`. -/
def runDecoded (d : Except Reject Instr) (s : State) : Result :=
  match d with
  | .ok i => exec i s
  | .error r => runRejected r s

/-- A `HOST` step from a packed command word. The reply is that of this command (log 3). -/
def hostCommand (bytes : List Byte) (s : State) : Result :=
  runDecoded (decode bytes) { s with reply := .none }

/-- A `HOST` step from a bus transaction at a port number. -/
def hostBus (t : Transaction) (s : State) : Result :=
  runDecoded (decodeTransaction s.params.portBase t) { s with reply := .none }

/-- One agent's step. -/
def agentStep (a : AgentStep) (s : State) : Result :=
  match a with
  | .command bytes => hostCommand bytes s
  | .bus t => hostBus t s
  | .seq n => seqStep n s
  | .dma channels => dmaStep channels s
  | .timer1 => timer1Step s
  | .timer2 => timer2Step s

/-- The machine's step: the next entry of the inbox is taken and its agent steps. With an empty inbox no
agent steps and nothing changes (log 1). -/
def nextStep (s : State) : Result :=
  match s.inbox with
  | [] => .next s
  | a :: rest => agentStep a { s with inbox := rest }

/-- The command word of `nbits` bits `w`, put where the next step takes it. -/
def State.enqueueWord (s : State) (nbits w : Nat) : State :=
  { s with inbox := .command (tableBytes nbits w) :: s.inbox }

end Sys2Proof.Machine
end

