-- ==== Sys2Proof/Machine/Step.lean ====
section
/-! DEFINITION. The step of the machine, and how the opcode table's words reach it. -/

namespace Sys2Proof.Machine

/-- One step of the block: one agent takes one step (`00_scope.md` R8). -/
def step (s : State) : Host.Outcome State Fault Refusal := nextStep s

/-- The command whose bits are `w`, as the head of the inbox: the very next step runs it (log 1). -/
def State.withFetchWord (s : State) (nbits w : Nat) : State := s.enqueueWord nbits w

end Sys2Proof.Machine
end

