-- ==== Sys2Proof/Safety.lean ====
section
/-! DEFINITION. What the statements mean by a sound state and by a run: the invariant that every agent step
keeps, the runs of the agents and their weak fairness, and the iteration of one command. Beside them the
real numbers that the machine's `Exact` numbers are. -/

namespace Sys2Proof

/-- The values of the open numbers that give `Config.openOrder`. -/
noncomputable def Config.openValue : OpenReal → ℝ :=
  Classical.epsilon fun v => (∀ u : OpenReal, u.inRange (v u)) ∧
    ∀ x : Exact, Config.openOrder.sign x = SignType.sign (x.value v)

/-- The real number. -/
noncomputable def Exact.toReal (x : Exact) : ℝ := x.value Config.openValue

/-- `VOL_STEP_RATIO` as a real number. -/
noncomputable def Params.ratio (p : Params) : ℝ := (p.volStepRatio.number .volStepRatio).toReal

/-- `LIMIT_RELEASE` as a real number. -/
noncomputable def Params.release (p : Params) : ℝ := (p.limitRelease.number .limitRelease).toReal

/-- A real number truncated toward zero, as `Narrow` does it (`47_output_limiter.md` R343). -/
noncomputable def truncate (x : ℝ) : ℤ := if x < 0 then ⌈x⌉ else ⌊x⌋

end Sys2Proof

namespace Sys2Proof.Machine

/-- What the registers keep of a voice: every increment is the one its rate register gives
(`44_voice_registers.md` R212, R217), a volume rate is a byte, and the volume bounds are fields that a
bound byte gives (R218, R219). -/
structure Voice.Sound (x : Voice) : Prop where
  waveInc : x.wave.inc = waveIncrement x.wave.rate
  volRate : x.vol.rate = (x.vol.rate.extractLsb' 0 8).setWidth 16
  volInc : x.vol.inc = volInc (x.vol.rate.extractLsb' 0 8)
  volStart : ∃ b : Byte, x.vol.start = volBound b
  volEnd : ∃ b : Byte, x.vol.endAt = volBound b

/-- The invariant of the block: the voice count is 0 or 14 to 32 and the mask is that of the count
(`10_state.md` R29), `irq_status` bits 4, 1, 0 are 0 (R30), sample RAM is in its canonical form and inside
the 1 MB (R39), the accumulator carries nothing between steps (R41), and every voice is sound. -/
structure State.Inv (s : State) : Prop where
  count : s.activeVoices = 0 ∨ (14 ≤ s.activeVoices ∧ s.activeVoices ≤ 32)
  mask : s.activeVoiceMask = maskOf s.activeVoices
  irq : s.irqStatus &&& 0x13#8 = 0
  ram : s.ram.wf
  acc : s.acc = []
  voices : ∀ v, (s.voice v).Sound

/-- The pending bits of the active voices, on both axes (`60_exceptions.md` R355: `total`). -/
def State.totalPending (s : State) : Word :=
  (s.volState &&& s.activeVoiceMask) ||| (s.waveState &&& s.activeVoiceMask)

/-- Frame `b` is frame `a` with the scaled sample `g` panned and added, in real numbers
(`43_voice_render.md` R194). -/
def Frame.IsSum (b a : Frame) (q : Params) (pos : Fin 16) (g : ℝ) : Prop :=
  b.left.toReal = a.left.toReal + g * (panLeft q pos).toReal ∧
    b.right.toReal = a.right.toReal + g * (panRight q pos).toReal

/-! ### Runs and weak fairness -/

/-- The agents (`00_scope.md` R8). -/
inductive Agent where
  | host
  | seq
  | dma
  | timer1
  | timer2
deriving DecidableEq, Repr

/-- The agent that takes a step. -/
def AgentStep.agent : AgentStep → Agent
  | .command _ => .host
  | .bus _ => .host
  | .seq _ => .seq
  | .dma _ => .dma
  | .timer1 => .timer1
  | .timer2 => .timer2

/-- Whether an agent is enabled: `HOST` always, `SEQ` by `43_voice_render.md` R195, `DMA` by `46_dma.md`
R311, a timer by `60_exceptions.md` R370. -/
def State.enabled (s : State) : Agent → Bool
  | .host => true
  | .seq => s.outputEnabled
  | .dma => s.dmaScheduled
  | .timer1 => s.timer1.counting
  | .timer2 => s.timer2.counting

/-- A run: from each state an enabled agent takes the machine's step to the next state (`00_scope.md` R8).
`move n` is the choice that the spec leaves free, handed to the machine through its inbox (log 1). -/
structure IsRun (state : Nat → State) (move : Nat → AgentStep) : Prop where
  enabled : ∀ n, (state n).enabled (move n).agent = true
  next : ∀ n, step { state n with inbox := [move n] } = .next (state (n + 1))

/-- Weak fairness of the scheduled agents (`00_scope.md` R9, `70_reset_and_hazards.md` R430): an agent other
than `HOST` that is enabled from some point on steps after it. -/
def WeaklyFair (state : Nat → State) (move : Nat → AgentStep) : Prop :=
  ∀ (a : Agent) (n : Nat), a ≠ .host → (∀ m, n ≤ m → (state m).enabled a = true) →
    ∃ m, n ≤ m ∧ (move m).agent = a

/-! ### Iterations -/

/-- A command executed `n` times, stopping at the first fault or refusal. -/
def execTimes (i : Instr) : Nat → State → Result
  | 0, s => .next s
  | n + 1, s =>
    match exec i s with
    | .next t => execTimes i n t
    | .fault e => .fault e
    | .refused e => .refused e

/-- The `SEQ` step of `n` frames taken as `n` steps of one frame, stopping at the first fault. -/
def seqSingly : Nat → State → Result
  | 0, s => .next s
  | n + 1, s =>
    match seqStep 1 s with
    | .next t => seqSingly n t
    | .fault e => .fault e
    | .refused e => .refused e

end Sys2Proof.Machine
end

