-- ==== Sys2Proof/Certificates/Slice0/Obligations.lean ====
section
/-! DEFINITION. The statements for the provers.

Most register layouts of this block are the spec's own decisions (`92_eei_decisions.md`, marked so where
the rule stands). A statement that rests on one says so in its docstring and names the decision; its
entry in `OBLIGATIONS.json` has basis `derived`. -/

open Sys2Proof Sys2Proof.Machine

/-! ### Encoding, and how a command reaches the machine -/

/-- Every well-formed command, with every operand, is read back from its own encoding (packing of
`30_encoding.md` R92, R96: decision D3; ids of R97: decision D7). -/
def Obligations.DecodeInvertsEncode : Prop :=
  ∀ i : Instr, i.wellFormed = true → decode (encode i) = .ok i

/-- Whatever bytes decode to a command are that command's encoding, and the command is well formed: no
bit of a word is dropped and no word has two readings (decisions D3, D7). -/
def Obligations.DecodedBytesAreTheEncoding : Prop :=
  ∀ (bytes : List Byte) (i : Instr), decode bytes = .ok i → i.wellFormed = true ∧ encode i = bytes

/-- The example words of `30_encoding.md` R92 and R96 (decision D3). -/
def Obligations.ExampleWordsOfTheSpecDecode : Prop :=
  decodeTableWord 32 0x8303000E = some (.outbRegSelect 0x000E#16) ∧
  decodeTableWord 32 0xC3041234 = some (.outwRegData 0x1234#16) ∧
  decodeTableWord 32 0x02060000 = some .inbIrqStatus ∧
  decodeTableWord 32 0x43040000 = some .inwRegData ∧
  decodeTableWord 24 0x0C0700 = some (.pan 0x0700#16) ∧
  decodeTableWord 8 0x8F = some .rdVoiceIrq

/-- A step takes the next entry of the inbox and its agent steps, and with an empty inbox nothing changes
(`00_scope.md` R8; the inbox and the reply are the model's choice, log 1, log 3). Where the entry is a
command word that decodes to `i`, the step is `exec i` on the state without that entry and with no reply
yet; so is the step on a state that `withFetchWord` gives a word of the table. -/
def Obligations.StepRunsTheDecodedCommand : Prop :=
  (∀ s : State, s.inbox = [] → step s = .next s) ∧
  (∀ (s : State) (a : AgentStep) (rest : List AgentStep), s.inbox = a :: rest →
    step s = agentStep a { s with inbox := rest }) ∧
  (∀ (s : State) (bytes : List Byte) (rest : List AgentStep) (i : Instr),
    s.inbox = .command bytes :: rest → decode bytes = .ok i →
      step s = exec i { s with inbox := rest, reply := .none }) ∧
  (∀ (s : State) (nbits w : Nat) (i : Instr), decodeTableWord nbits w = some i →
      step (s.withFetchWord nbits w) = exec i { s with reply := .none })

/-- A bus transaction at port number `offset + (PORT_BASE - 0x200)` runs the command its components pack
into (`30_encoding.md` R91: decision D4; R92: decision D3). An access to an offset or in a direction that
the port map does not list is inert: a write changes nothing, an 8-bit read delivers `0xFF`, a 16-bit read
delivers a free value, which is the model's choice (log 11). So is every access at a port number that no
offset of a packed word reaches (log 23). A 16-bit access to a port listed as 8-bit is refused (log 19)
(`45_global_registers.md` R276: decision D49). -/
def Obligations.BusTransactions : Prop :=
  ∀ (s : State) (t : Transaction) (rest : List AgentStep), s.inbox = .bus t :: rest →
    let inert : Prop :=
      (t.write = true → step s = .next { s with inbox := rest, reply := .none }) ∧
      (t.write = false → t.wide = false →
        step s = .next { s with inbox := rest, reply := .byte 0xFF#8 }) ∧
      (t.write = false → t.wide = true →
        ∃ h, step s = .next { s with inbox := rest, reply := .half h, draws := s.draws + 1 })
    (∀ offset, t.port + 0x200 = offset + s.params.portBase → offset < 0x1000 →
      (∀ i, decode (encodeBtw (transactionHi t offset) t.value) = .ok i →
        step s = exec i { s with inbox := rest, reply := .none }) ∧
      (t.wellFormed = true → t.wide = false → t.write = true →
        offset ∉ [0x200, 0x208, 0x209, 0x20B, 0x302, 0x303, 0x304, 0x305, 0x307] → inert) ∧
      (t.wellFormed = true → t.wide = false → t.write = false →
        offset ∉ [0x206, 0x208, 0x20A, 0x302, 0x303, 0x304, 0x305, 0x307] → inert) ∧
      (t.wellFormed = true → t.wide = true →
        offset ∉ [0x200, 0x206, 0x208, 0x209, 0x20A, 0x20B, 0x302, 0x303, 0x304, 0x305, 0x307] → inert) ∧
      (t.wide = true →
        offset ∈ [0x200, 0x206, 0x208, 0x209, 0x20A, 0x20B, 0x302, 0x303, 0x305, 0x307] →
          step s = .refused .wideAccess)) ∧
    (t.port + 0x200 < s.params.portBase ∨ s.params.portBase + 0x1000 ≤ t.port + 0x200 → inert)

/-! ### All host commands -/

/-- Every host command completes, and no host command touches the accumulator, the configuration or the
steps still to come; only the poke writes sample RAM, and only the channel select changes the DMA channel
and the interrupt line (`45_global_registers.md` R260, `20_memory.md` R74, `10_state.md` R38). -/
def Obligations.EveryHostCommandCompletes : Prop :=
  ∀ (i : Instr) (s : State), ∃ t, exec i s = .next t ∧
    t.acc = s.acc ∧ t.params = s.params ∧ t.inbox = s.inbox ∧
    ((∀ v, i ≠ .outbDramData v) → t.ram = s.ram) ∧
    ((∀ v, i ≠ .outbChanSelect v) → t.dmaChannel = s.dmaChannel ∧ t.irqNumber = s.irqNumber)

/-- The reads without side effect change the reply and nothing else: every port read, the data ports
unless `selected_register` is `0x41` or `0x8F`, and every register read but `RD_DMA_CTRL` and
`RD_VOICE_IRQ` (`20_memory.md` R67, of which the `0x41` part is decision D38). -/
def Obligations.OtherReadsChangeOnlyTheReply : Prop :=
  (∀ i ∈ [Instr.inbIrqStatus, .inbTimerStatus, .inbAdlibCmdRb, .inbVoiceIndex, .inbRegSelect,
      .inbDramData, .rdDmaAddr, .rdTimerCtrl, .rdSampleCtrl, .rdWaveCtrl, .rdWaveRate,
      .rdWaveStartMsw, .rdWaveStartLsw, .rdWaveEndMsw, .rdWaveEndLsw, .rdVolRate, .rdVolStart,
      .rdVolEnd, .rdVolCurrent, .rdWavePosMsw, .rdWavePosLsw, .rdPan, .rdVolCtrl],
    ∀ s : State, ∃ r, exec i s = .next { s with reply := r }) ∧
  (∀ i ∈ [Instr.inbRegDataLo, .inwRegData, .inbRegDataHi], ∀ s : State,
    s.selectedRegister ≠ 0x41#8 → s.selectedRegister ≠ 0x8F#8 →
      ∃ r, exec i s = .next { s with reply := r })

/-! ### Port commands -/

/-- The four plain status reads deliver a register and have no side effect (`45_global_registers.md` R262,
R265, R267, R269, `20_memory.md` R67). That `0x20A`, which DOC00 gives a board variant only, is always
answered is the spec's own choice (R265, `91_not_in_source.md` N22). -/
def Obligations.StatusPortReads : Prop :=
  ∀ s : State,
    exec .inbIrqStatus s = .next { s with reply := .byte s.irqStatus } ∧
    exec .inbVoiceIndex s = .next { s with reply := .byte (BitVec.ofNat 8 s.voiceIndex.val) } ∧
    exec .inbRegSelect s = .next { s with reply := .byte s.selectedRegister } ∧
    exec .inbAdlibCmdRb s = .next { s with reply := .byte s.adlibCommand }

/-- The plain latching port writes, with all they change: mixer control arms the channel select (decision
D29), the voice index is masked to 5 bits and selects a voice (decision D43), a register select clears
the data latch (decision D6), the AdLib command and the low data byte are latched and execute nothing. -/
def Obligations.LatchingPortWrites : Prop :=
  ∀ (s : State) (v : Half),
    exec (.outbMixCtrl v) s = .next { s with mixCtrl := v.setWidth 8, shouldApply := true } ∧
    exec (.outbAdlibCmd v) s = .next { s with adlibCommand := v.setWidth 8 } ∧
    exec (.outbVoiceIndex v) s =
      .next { s with voiceIndex := Fin.ofNat 32 v.toNat, voiceSelected := true } ∧
    exec (.outbRegSelect v) s =
      .next { s with selectedRegister := v.setWidth 8, registerData := 0 } ∧
    exec (.outbRegDataLo v) s =
      .next { s with registerData := (s.registerData &&& 0xFF00#16) ||| (v &&& 0x00FF#16) }

/-- The timer ports. The command: bit 7 clears both expired flags and nothing else, otherwise bits 6, 5 mask
and bits 0, 1 start. The status: bit 7 either timer expired, bits 6 and 5 each one's, bits 2 and 1 their
interrupt bits (`60_exceptions.md` R372, `30_encoding.md` R116: decision D45). -/
def Obligations.TimerPorts : Prop :=
  ∀ (s : State) (v : Half),
    (v.getLsbD 7 = true → exec (.outbTimerCmd v) s =
      .next { s with timer1.expired := false, timer2.expired := false }) ∧
    (v.getLsbD 7 = false → exec (.outbTimerCmd v) s =
      .next { s with
        timer1.masked := v.getLsbD 6, timer1.counting := v.getLsbD 0
        timer2.masked := v.getLsbD 5, timer2.counting := v.getLsbD 1 }) ∧
    ∃ b : Byte, exec .inbTimerStatus s = .next { s with reply := .byte b } ∧
      b.getLsbD 7 = (s.timer1.expired || s.timer2.expired) ∧
      b.getLsbD 6 = s.timer1.expired ∧ b.getLsbD 5 = s.timer2.expired ∧
      b.getLsbD 2 = s.irqStatus.getLsbD 2 ∧ b.getLsbD 1 = s.irqStatus.getLsbD 3 ∧
      b.getLsbD 4 = false ∧ b.getLsbD 3 = false ∧ b.getLsbD 0 = false

/-- The channel select (`45_global_registers.md` R264: decision D44): ignored unless armed; armed, it
disarms itself and, by `mix_ctrl` bit 6, sets the interrupt line or the DMA channel from the tables of
`30_encoding.md` R118, where "none" leaves the setting. -/
def Obligations.ChannelSelectIsArmedOnce : Prop :=
  ∀ (s : State) (v : Half),
    (s.shouldApply = false → exec (.outbChanSelect v) s = .next s) ∧
    (s.shouldApply = true → s.mixCtrl.getLsbD 6 = true →
      exec (.outbChanSelect v) s = .next { s with
        shouldApply := false
        irqNumber := [s.irqNumber, 2, 5, 3, 7, 11, 12, 15][v.toNat % 8]! }) ∧
    (s.shouldApply = true → s.mixCtrl.getLsbD 6 = false →
      exec (.outbChanSelect v) s = .next { s with
        shouldApply := false
        dmaChannel := [s.dmaChannel, 1, 3, 5, 6, 7, s.dmaChannel, s.dmaChannel][v.toNat % 8]! })

/-- A commit executes the register write command of `selected_register` with the assembled data, the same
one that the packed command word runs, and an unknown id changes the data latch only
(`45_global_registers.md` R273, R274, R277, R279; which access commits is decision D5, the unknown id
decision D42). -/
def Obligations.CommitRunsTheRegisterWrite : Prop :=
  ∀ (s : State) (v : Half),
    (∀ i, decode (encodeRegw s.selectedRegister v) = .ok i →
      exec (.outwRegData v) s = exec i { s with registerData := v }) ∧
    ((∀ i, decode (encodeRegw s.selectedRegister v) ≠ .ok i) →
      exec (.outwRegData v) s = .next { s with registerData := v }) ∧
    exec (.outbRegDataHi v) s =
      exec (.outwRegData ((v <<< 8) ||| (s.registerData &&& 0x00FF#16))) s

/-- Low byte then high byte is the same as one 16-bit write (`20_memory.md` R61, decisions D5, D51), and
both complete. -/
def Obligations.NarrowCommitEqualsWideCommit : Prop :=
  ∀ (s : State) (v : Half), ∃ t u, exec (.outbRegDataLo (v &&& 0x00FF#16)) s = .next t ∧
    exec (.outbRegDataHi (v >>> 8)) t = .next u ∧ exec (.outwRegData v) s = .next u

/-- A data-port read performs one register read, side effects included, and delivers all of it, its low
byte or its high byte (`45_global_registers.md` R275; which part each port delivers is decision D48, R99 of
`30_encoding.md`); an unknown id reads the data latch (R278, R279: decision D42). -/
def Obligations.DataPortReadsPerformOneRegisterRead : Prop :=
  ∀ s : State, ∃ (t : State) (r : Half),
    exec .inwRegData s = .next { t with reply := .half r } ∧
    exec .inbRegDataLo s = .next { t with reply := .byte (r.setWidth 8) } ∧
    exec .inbRegDataHi s = .next { t with reply := .byte ((r >>> 8).setWidth 8) } ∧
    (∀ i, decode [s.selectedRegister] = .ok i → exec i s = .next { t with reply := .half r }) ∧
    ((∀ i, decode [s.selectedRegister] ≠ .ok i) → t = s ∧ r = s.registerData)

/-- Poke writes one byte, at `dram_addr`, and changes nothing else; peek then delivers that byte, and at any
time delivers `RAM[dram_addr]`; neither advances `dram_addr` (`45_global_registers.md` R270, R271: for peek
decision D40). -/
def Obligations.PeekAndPoke : Prop :=
  (∀ s : State, exec .inbDramData s = .next { s with reply := .byte (s.ramByte s.dramAddr) }) ∧
  (∀ (s : State) (v : Half), ∃ m, exec (.outbDramData v) s = .next { s with ram := m } ∧
    ({ s with ram := m } : State).ramByte s.dramAddr = v.setWidth 8 ∧
    ∀ a, a ≠ s.dramAddr → ({ s with ram := m } : State).ramByte a = s.ramByte a)

/-! ### Voice register writes -/

/-- With no voice selected a voice register write changes nothing, and a voice register read delivers
`0x0300` for the two control bytes and 0 otherwise (`44_voice_registers.md` R210, R230: the ids are
decision D7, the delivered values decision D41). -/
def Obligations.VoiceAccessesWithoutAVoice : Prop :=
  ∀ (s : State) (d : Half), s.voiceSelected = false →
    (∀ i ∈ [Instr.waveCtrl d, .waveRate d, .waveStartMsw d, .waveStartLsw d, .waveEndMsw d,
      .waveEndLsw d, .volRate d, .volStart d, .volEnd d, .volCurrent d, .wavePosMsw d,
      .wavePosLsw d, .pan d, .volCtrl d], exec i s = .next s) ∧
    (∀ i ∈ [Instr.rdWaveCtrl, .rdVolCtrl], exec i s = .next { s with reply := .half 0x0300#16 }) ∧
    (∀ i ∈ [Instr.rdWaveRate, .rdWaveStartMsw, .rdWaveStartLsw, .rdWaveEndMsw, .rdWaveEndLsw,
      .rdVolRate, .rdVolStart, .rdVolEnd, .rdVolCurrent, .rdWavePosMsw, .rdWavePosLsw, .rdPan],
      exec i s = .next { s with reply := .half 0 })

/-- The wave rate write keeps the raw rate and sets the increment to half of it, rounded up
(`44_voice_registers.md` R212: decision D10). -/
def Obligations.WaveRateWrite : Prop :=
  ∀ (s : State) (d : Half), s.voiceSelected = true →
    ∃ inc : S32, inc.toInt = ((d.toNat + 1) / 2 : Nat) ∧
      exec (.waveRate d) s = .next (s.setCurWave { s.cur.wave with rate := d, inc := inc })

/-- The six wave address writes replace one half of a field, as the two's-complement formulas of
`44_voice_registers.md` R226 say (decision D11). -/
def Obligations.WaveAddressWrites : Prop :=
  ∀ (s : State) (d : Half), s.voiceSelected = true →
    ∀ (msw lsw : S32 → S32),
    (∀ f, (msw f).word = ((d &&& 0x1FFF#16).setWidth 32 <<< 16) ||| (f.word &&& 0x0000FFFF#32)) →
    (∀ f, (lsw f).word = (f.word &&& 0xFFFF0000#32) ||| d.setWidth 32) →
    let w := s.cur.wave
    exec (.waveStartMsw d) s = .next (s.setCurWave { w with start := msw w.start }) ∧
    exec (.waveStartLsw d) s = .next (s.setCurWave { w with start := lsw w.start }) ∧
    exec (.waveEndMsw d) s = .next (s.setCurWave { w with endAt := msw w.endAt }) ∧
    exec (.waveEndLsw d) s = .next (s.setCurWave { w with endAt := lsw w.endAt }) ∧
    exec (.wavePosMsw d) s = .next (s.setCurWave { w with pos := msw w.pos }) ∧
    exec (.wavePosLsw d) s = .next (s.setCurWave { w with pos := lsw w.pos })

/-- The volume writes: the rate write keeps the rate byte and sets the increment to
`magnitude * 512 / 8 ^ bank`, the bound and position writes set table indices in 512ths
(`44_voice_registers.md` R217 to R220, `42_volume.md` R171: decision D12). -/
def Obligations.VolumeWrites : Prop :=
  ∀ (s : State) (d : Half), s.voiceSelected = true →
    ∃ inc bound pos : S32,
      inc.toInt = ((d.toNat / 256 % 64) * 512 / 8 ^ (d.toNat / 16384) : Nat) ∧
      bound.toInt = (d.toNat / 256 * 16 * 512 : Nat) ∧ pos.toInt = (d.toNat / 16 * 512 : Nat) ∧
      exec (.volRate d) s = .next (s.setCurVol { s.cur.vol with rate := d >>> 8, inc := inc }) ∧
      exec (.volStart d) s = .next (s.setCurVol { s.cur.vol with start := bound }) ∧
      exec (.volEnd d) s = .next (s.setCurVol { s.cur.vol with endAt := bound }) ∧
      exec (.volCurrent d) s = .next (s.setCurVol { s.cur.vol with pos := pos })

/-- The pan write saturates at 15 or keeps four bits, by `PAN_WRITE_MODE` (`44_voice_registers.md` R223:
decision D13). -/
def Obligations.PanWrite : Prop :=
  ∀ (s : State) (d : Half), s.voiceSelected = true →
    ∃ p : Fin 16, exec (.pan d) s = .next (s.setCur { s.cur with panPosition := p }) ∧
      (s.params.panWriteMode = .saturate → p.val = min (d.toNat / 256) 15) ∧
      (s.params.panWriteMode = .low4 → p.val = d.toNat / 256 % 16)

/-- A control-byte write replaces the seven flags, forces the voice's pending bit on if bits 7 and 5 are
both set and clears it otherwise, and re-runs the aggregation only if a pending bit changed
(`44_voice_registers.md` R211, R224, R225: decision D8). -/
def Obligations.ControlByteWrites : Prop :=
  ∀ (s : State) (d : Half), s.voiceSelected = true →
    ∀ (pw pv : Word),
    (∀ k, pw.getLsbD k = if k = s.voiceIndex.val then d.getLsbD 15 && d.getLsbD 13
      else s.waveState.getLsbD k) →
    (∀ k, pv.getLsbD k = if k = s.voiceIndex.val then d.getLsbD 15 && d.getLsbD 13
      else s.volState.getLsbD k) →
    let w : State :=
      ({ s with waveState := pw } : State).setCurWave { s.cur.wave with state := (d >>> 8).setWidth 7 }
    let u : State :=
      ({ s with volState := pv } : State).setCurVol { s.cur.vol with state := (d >>> 8).setWidth 7 }
    exec (.waveCtrl d) s = .next (if pw = s.waveState then w else w.checkVoiceIrq) ∧
    exec (.volCtrl d) s = .next (if pv = s.volState then u else u.checkVoiceIrq)

/-! ### Voice register reads -/

/-- The wave readbacks of the current voice (`44_voice_registers.md` R233 to R237, R242, R243: decision
D7). -/
def Obligations.WaveReadbacks : Prop :=
  ∀ s : State, s.voiceSelected = true →
    let w := s.cur.wave
    exec .rdWaveRate s = .next { s with reply := .half w.rate } ∧
    exec .rdWaveStartMsw s = .next { s with reply := .half ((w.start.word >>> 16).setWidth 16) } ∧
    exec .rdWaveStartLsw s = .next { s with reply := .half (w.start.word.setWidth 16) } ∧
    exec .rdWaveEndMsw s = .next { s with reply := .half ((w.endAt.word >>> 16).setWidth 16) } ∧
    exec .rdWaveEndLsw s = .next { s with reply := .half (w.endAt.word.setWidth 16) } ∧
    exec .rdWavePosMsw s = .next { s with reply := .half ((w.pos.word >>> 16).setWidth 16) } ∧
    exec .rdWavePosLsw s = .next { s with reply := .half (w.pos.word.setWidth 16) }

/-- The volume, control and pan readbacks of the current voice: the rate and bound bytes in bits 15:8 (the
bounds being fields that a bound byte gives, as in every sound state), the table index of the position in
bits 15:4; bits 6:0 the flags and bit 7 the pending bit of the axis, and the pan position, in the high byte
(`44_voice_registers.md` R231, R232, R238 to R241, R244, R245: decisions D7, D8, D12). -/
def Obligations.VolumeControlAndPanReadbacks : Prop :=
  ∀ (s : State) (b e : Byte), s.voiceSelected = true →
    s.cur.vol.start.toInt = (b.toNat * 16 * 512 : Nat) →
    s.cur.vol.endAt.toInt = (e.toNat * 16 * 512 : Nat) →
    exec .rdVolRate s = .next { s with reply := .half (s.cur.vol.rate <<< 8) } ∧
    exec .rdVolStart s = .next { s with reply := .half (b.setWidth 16 <<< 8) } ∧
    exec .rdVolEnd s = .next { s with reply := .half (e.setWidth 16 <<< 8) } ∧
    exec .rdVolCurrent s =
      .next { s with reply := .half (BitVec.ofNat 16 (volIndex s.cur.vol.pos) <<< 4) } ∧
    ∃ w v p : Half,
      exec .rdWaveCtrl s = .next { s with reply := .half w } ∧
      exec .rdVolCtrl s = .next { s with reply := .half v } ∧
      exec .rdPan s = .next { s with reply := .half p } ∧
      w.setWidth 8 = 0#8 ∧ v.setWidth 8 = 0#8 ∧ p.toNat = s.cur.panPosition.val * 256 ∧
      (w >>> 8).setWidth 7 = s.cur.wave.state ∧ w.getLsbD 15 = s.waveState.getLsbD s.voiceIndex.val ∧
      (v >>> 8).setWidth 7 = s.cur.vol.state ∧ v.getLsbD 15 = s.volState.getLsbD s.voiceIndex.val

/-- What a voice register write stores, its readback delivers: all 16 bits, or 13, 12 or 8 of them
(`44_voice_registers.md` R246: the readbacks are "the inverses of the writes", decision D7). -/
def Obligations.VoiceRegistersReadBackWhatWasWritten : Prop :=
  ∀ (s : State) (d : Half), s.voiceSelected = true →
    ∀ p ∈ [(Instr.waveRate d, Instr.rdWaveRate, d), (.waveStartMsw d, .rdWaveStartMsw, d &&& 0x1FFF#16),
      (.waveStartLsw d, .rdWaveStartLsw, d), (.waveEndMsw d, .rdWaveEndMsw, d &&& 0x1FFF#16),
      (.waveEndLsw d, .rdWaveEndLsw, d), (.volRate d, .rdVolRate, d &&& 0xFF00#16),
      (.volStart d, .rdVolStart, d &&& 0xFF00#16), (.volEnd d, .rdVolEnd, d &&& 0xFF00#16),
      (.volCurrent d, .rdVolCurrent, d &&& 0xFFF0#16), (.wavePosMsw d, .rdWavePosMsw, d &&& 0x1FFF#16),
      (.wavePosLsw d, .rdWavePosLsw, d)],
      ∃ t, exec p.1 s = .next t ∧ exec p.2.1 t = .next { t with reply := .half p.2.2 }

/-! ### Global registers -/

/-- The active-voices write clamps the count to 14 to 32, sets exactly that many low mask bits and tells
the mixer; it touches neither the cursor nor the pending bits (`45_global_registers.md` R280: decision
D23). -/
def Obligations.ActiveVoicesWrite : Prop :=
  ∀ (s : State) (d : Half), ∃ (n : Nat) (mask : Word),
    n = max 14 (1 + d.toNat / 256 % 32) ∧ 14 ≤ n ∧ n ≤ 32 ∧
    (∀ k, k < 32 → mask.getLsbD k = decide (k < n)) ∧
    exec (.activeVoices d) s =
      .next { s with activeVoices := n, activeVoiceMask := mask, out := s.out ++ [.audioRate n] }

/-- The DMA and sampling register writes: a control write acknowledges the terminal count and schedules an
attempt if its bit 0 is set (decisions D37, D38), the address is latched, a sampling write with bit 0 set
schedules an attempt (decision D37). -/
def Obligations.DmaRegisterWrites : Prop :=
  ∀ (s : State) (d : Half),
    exec (.dmaCtrl d) s = .next { s with
      dmaCtrl := (d >>> 8).setWidth 8
      irqStatus := s.irqStatus &&& 0x7F#8
      dmaScheduled := s.dmaScheduled || d.getLsbD 8 } ∧
    exec (.dmaAddr d) s = .next { s with dmaAddr := d } ∧
    exec (.sampleCtrl d) s = .next { s with
      sampleCtrl := (d >>> 8).setWidth 8
      dmaScheduled := s.dmaScheduled || d.getLsbD 8 }

/-- The global register reads: the DMA control read reports the control byte with the terminal-count IRQ in
bit 6, acknowledges it and re-checks the line (`45_global_registers.md` R283: decision D38); the three
latches read back with no side effect (R288: decision D48). -/
def Obligations.GlobalRegisterReads : Prop :=
  ∀ s : State,
    (∃ (r : Half) (evs : List OutEvent),
      exec .rdDmaCtrl s = .next { s with
        irqStatus := s.irqStatus &&& 0x7F#8, out := s.out ++ evs, reply := .half r } ∧
      r.setWidth 8 = 0#8 ∧ r.getLsbD 14 = s.irqStatus.getLsbD 7 ∧
      (∀ k, k < 8 → k ≠ 6 → r.getLsbD (8 + k) = s.dmaCtrl.getLsbD k) ∧
      evs = if (s.irqStatus &&& (if s.irqEnabled then 0x7F#8 else 0x1F#8)) ≠ 0 ∧
        s.mixCtrl.getLsbD 3 = true then [.irqAssert s.irqNumber] else []) ∧
    exec .rdDmaAddr s = .next { s with reply := .half s.dmaAddr } ∧
    exec .rdTimerCtrl s = .next { s with reply := .half (s.timerCtrl.setWidth 16 <<< 8) } ∧
    exec .rdSampleCtrl s = .next { s with reply := .half (s.sampleCtrl.setWidth 16 <<< 8) }

/-- The two DRAM address registers set the low 16 or the high 4 bits of the address, by `DRAM_REG_ORDER`
(`45_global_registers.md` R284, R285: decision D39), and nothing else. -/
def Obligations.DramAddressWrites : Prop :=
  ∀ (s : State) (d : Half), ∃ low high : RamAddr,
    low.setWidth 16 = d ∧ (low >>> 16).setWidth 4 = (s.dramAddr >>> 16).setWidth 4 ∧
    high.setWidth 16 = s.dramAddr.setWidth 16 ∧ (high >>> 16).setWidth 4 = (d >>> 8).setWidth 4 ∧
    (s.params.dramRegOrder = .lswFirst →
      exec (.dramAddrA d) s = .next { s with dramAddr := low } ∧
      exec (.dramAddrB d) s = .next { s with dramAddr := high }) ∧
    (s.params.dramRegOrder = .msbFirst →
      exec (.dramAddrA d) s = .next { s with dramAddr := high } ∧
      exec (.dramAddrB d) s = .next { s with dramAddr := low })

/-- The timer register writes (`60_exceptions.md` R373: decision D45): bits 2 and 3 of the control byte are
the timers' IRQ flags, a cleared one acknowledges that timer's bit, and the line is re-checked; the values
are latches. -/
def Obligations.TimerRegisterWrites : Prop :=
  ∀ (s : State) (d : Half),
    (∃ irq : Byte, (∀ k, irq.getLsbD k = (s.irqStatus.getLsbD k &&
        !(k == 2 && !d.getLsbD 10) && !(k == 3 && !d.getLsbD 11))) ∧
      exec (.timerCtrl d) s = .next ({ s with
        timerCtrl := (d >>> 8).setWidth 8
        timer1.raiseIrq := d.getLsbD 10
        timer2.raiseIrq := d.getLsbD 11
        irqStatus := irq } : State).checkIrq) ∧
    exec (.timer1Value d) s = .next { s with timer1.value := (d >>> 8).setWidth 8 } ∧
    exec (.timer2Value d) s = .next { s with timer2.value := (d >>> 8).setWidth 8 }

/-- Run state 0 stops playback, with all that this clears and nothing else (`70_reset_and_hazards.md` R402:
the list is decision D26); any run state above 1 enables output if there are active voices, and the IRQ
enable is latched in every case (`45_global_registers.md` R289; the bits are decision D25). -/
def Obligations.RuntimeStopAndBegin : Prop :=
  ∀ (s : State) (d : Half),
    (d.toNat / 256 % 8 = 0 → exec (.runtimeCtrl d) s = .next { s with
      outputEnabled := false, selectedRegister := 0, registerData := 0, voiceIndex := 0
      voiceSelected := false, activeVoices := 0, activeVoiceMask := 0, irqStatus := 0
      irqEnabled := false, dmaCtrl := 0, dramAddr := 0, mixCtrl := 0x0B#8, shouldApply := false
      sampleCtrl := 0, timerCtrl := 0, peakLeft := .ofRat 1, peakRight := .ofRat 1
      timer1.counting := false, timer2.counting := false }) ∧
    (2 ≤ d.toNat / 256 % 8 → exec (.runtimeCtrl d) s = .next { s with
      outputEnabled := s.outputEnabled || decide (0 < s.activeVoices)
      irqEnabled := decide (4 ≤ d.toNat / 256 % 8) })

/-- Prepare for playback (`70_reset_and_hazards.md` R403: decision D27): every voice held, at volume
position 0 and pan 7, its wave position and the AdLib latch unspecified (`pos` and `adlib` are any values),
nothing pending, the timers at their defaults; output is neither enabled nor disabled. -/
def Obligations.RuntimePrepare : Prop :=
  ∀ (s : State) (d : Half), d.toNat / 256 % 8 = 1 →
    ∃ (vs : Vector Voice 32) (pos : Fin 32 → S32) (adlib : Byte),
      exec (.runtimeCtrl d) s = .next { s with
        voices := vs, waveState := 0, volState := 0, status := 0, irqEnabled := false
        timer1 := ⟨0xFF#8, true, false, false, false⟩, timer2 := ⟨0xFF#8, true, false, false, false⟩
        adlibCommand := adlib, draws := s.draws + 1 } ∧
      ∀ v : Fin 32, vs[v] =
        { wave := { (s.voice v).wave with state := 0x01#7, pos := pos v }
          vol := { (s.voice v).vol with state := 0x01#7, pos := ⟨0, 0⟩ }
          panPosition := 7 }

/-- The voice IRQ read reports the voice at the cursor, with a clear bit for each axis on which it is
pending, clears both its pending bits and re-runs the aggregation (`45_global_registers.md` R292; the byte
is decision D30). -/
def Obligations.VoiceIrqRead : Prop :=
  ∀ s : State, ∃ (r : Half) (wave vol : Word),
    (∀ k, wave.getLsbD k = (s.waveState.getLsbD k && k != s.status.val)) ∧
    (∀ k, vol.getLsbD k = (s.volState.getLsbD k && k != s.status.val)) ∧
    r.setWidth 8 = 0 ∧ (r >>> 8).toNat % 32 = s.status.val ∧ r.getLsbD 13 = true ∧
    r.getLsbD 14 = !(s.volState.getLsbD s.status.val) ∧
    r.getLsbD 15 = !(s.waveState.getLsbD s.status.val) ∧
    exec .rdVoiceIrq s = .next
      { ({ s with waveState := wave, volState := vol } : State).checkVoiceIrq with reply := .half r }

/-! ### Interrupt aggregation -/

/-- `CheckIrq` emits one `IrqAssert` on the current line exactly when an ungated bit of `irq_status` is set
and `mix_ctrl` bit 3 is set, and changes no other state (`60_exceptions.md` R360: decision D29). The
aggregation recomputes bits 6 and 5 of `irq_status` from the active voices' pending bits, keeps the other
bits, and changes nothing else but the cursor and the event of `CheckIrq` (R355; the bit places are
decision D28). -/
def Obligations.AggregationAndTheInterruptLine : Prop :=
  ∀ s : State,
    s.checkIrq = { s with
      out := s.out ++
        if (s.irqStatus &&& (if s.irqEnabled then 0xFF#8 else 0x9F#8)) ≠ 0 ∧ s.mixCtrl.getLsbD 3 = true
        then [.irqAssert s.irqNumber] else [] } ∧
    ∃ (irq : Byte) (cursor : Fin 32),
      (∀ k, irq.getLsbD k =
        if k = 6 then s.volState &&& s.activeVoiceMask != 0
        else if k = 5 then s.waveState &&& s.activeVoiceMask != 0
        else s.irqStatus.getLsbD k) ∧
      s.checkVoiceIrq = { s with
        irqStatus := irq, status := cursor, out := ({ s with irqStatus := irq } : State).checkIrq.out }

/-- The round-robin cursor: in a sound state the aggregation leaves it, if nothing is pending; otherwise
moves it up circularly through `[0, active_voices)` to the first voice that is pending, not at all if it
already points at one. -/
def Obligations.CursorFindsTheNextPendingVoice : Prop :=
  ∀ s : State, s.Inv →
    (s.totalPending = 0 → s.checkVoiceIrq.status = s.status) ∧
    (s.totalPending ≠ 0 → ∃ k : Nat,
      s.checkVoiceIrq.status = (nextCursor s.activeVoices)^[k] s.status ∧
      s.totalPending.getLsbD s.checkVoiceIrq.status.val = true ∧
      s.checkVoiceIrq.status.val < s.activeVoices ∧
      ∀ j, j < k → s.totalPending.getLsbD ((nextCursor s.activeVoices)^[j] s.status).val = false)

/-- The round robin drains: from a sound state, whatever is pending and wherever the cursor stands,
`active_voices + 1` voice IRQ reads leave no active voice pending, and set no pending bit
(`60_exceptions.md` R357, `70_reset_and_hazards.md` R417: the spec's own inference from R292, R356). -/
def Obligations.VoiceIrqReadsDrainThePendingVoices : Prop :=
  ∀ s : State, s.Inv → ∃ t, execTimes .rdVoiceIrq (s.activeVoices + 1) s = .next t ∧
    t.totalPending = 0 ∧
    (∀ k, t.waveState.getLsbD k = true → s.waveState.getLsbD k = true) ∧
    (∀ k, t.volState.getLsbD k = true → s.volState.getLsbD k = true)

/-! ### Track advance -/

/-- A disabled track does not move and raises nothing. Every advance returns the position before it, and
writes nothing but that track's position, its flags `RESET` and `DECREASING`, and the voice's bit of the
axis' pending mask. -/
def Obligations.AdvanceReturnsThePositionBefore : Prop :=
  ∀ (s : State) (v : Fin 32) (axis : Axis) (suppress : Bool),
    (((s.voice v).track axis).state &&& 0x03#7 ≠ 0 →
      s.advance v axis suppress = .ok (((s.voice v).track axis).pos, s)) ∧
    ∀ (p : S32) (t : State), s.advance v axis suppress = .ok (p, t) →
      p = ((s.voice v).track axis).pos ∧
      ∃ (pos : S32) (flags : TrackFlags) (mask : Word),
        (∀ k, k ≠ 0 → k ≠ 6 → flags.getLsbD k = ((s.voice v).track axis).state.getLsbD k) ∧
        (∀ k, k ≠ v.val → mask.getLsbD k = (s.pending axis).getLsbD k) ∧
        t = (s.setVoice v ((s.voice v).setTrack axis
          { (s.voice v).track axis with pos := pos, state := flags })).setPending axis mask

/-- Short of its boundary a running track moves by one increment in its direction, and nothing else
changes. -/
def Obligations.AdvanceWithoutCrossing : Prop :=
  ∀ (s : State) (v : Fin 32) (axis : Axis) (suppress : Bool) (pos : S32),
    let t := (s.voice v).track axis
    t.state &&& 0x03#7 = 0 →
    (if t.state.getLsbD 6 then pos.toInt = t.pos.toInt - t.inc.toInt ∧ t.start.toInt < pos.toInt
      else pos.toInt = t.pos.toInt + t.inc.toInt ∧ pos.toInt < t.endAt.toInt) →
      s.advance v axis suppress =
        .ok (t.pos, s.setVoice v ((s.voice v).setTrack axis { t with pos := pos }))

/-- At its boundary a running track that neither loops nor rolls over is clamped to the boundary and gets
flag `0x01`; with `RAISEIRQ` its voice's pending bit is set. -/
def Obligations.AdvanceStopsAtTheBoundary : Prop :=
  ∀ (s : State) (v : Fin 32) (axis : Axis) (stepped : S32) (mask : Word),
    let t := (s.voice v).track axis
    t.state &&& 0x03#7 = 0 → t.state.getLsbD 3 = false →
    (if t.state.getLsbD 6 then
      stepped.toInt = t.pos.toInt - t.inc.toInt ∧ stepped.toInt ≤ t.start.toInt
      else stepped.toInt = t.pos.toInt + t.inc.toInt ∧ t.endAt.toInt ≤ stepped.toInt) →
    (∀ k, mask.getLsbD k = ((s.pending axis).getLsbD k || (k == v.val && t.state.getLsbD 5))) →
      s.advance v axis false = .ok (t.pos,
        (s.setVoice v ((s.voice v).setTrack axis { t with
          pos := if t.state.getLsbD 6 then t.start else t.endAt
          state := t.state ||| 0x01#7 })).setPending axis mask)

/-- Rollover: a running wave track under `suppress` passes its boundary and goes on, flags unchanged, with
its voice's pending bit set if `RAISEIRQ`; and a voice rolls over exactly when its volume track's `BIT16`
is set and its wave track's `LOOP` is not. -/
def Obligations.AdvanceRollsOver : Prop :=
  (∀ x : Voice, x.rollover = true ↔ x.vol.state.getLsbD 2 = true ∧ x.wave.state.getLsbD 3 = false) ∧
  (∀ (s : State) (v : Fin 32) (stepped : S32) (mask : Word),
    let t := (s.voice v).wave
    t.state &&& 0x03#7 = 0 →
    (if t.state.getLsbD 6 then
      stepped.toInt = t.pos.toInt - t.inc.toInt ∧ stepped.toInt ≤ t.start.toInt
      else stepped.toInt = t.pos.toInt + t.inc.toInt ∧ t.endAt.toInt ≤ stepped.toInt) →
    (∀ k, mask.getLsbD k = (s.waveState.getLsbD k || (k == v.val && t.state.getLsbD 5))) →
      s.advance v .wave true = .ok (t.pos,
        ({ s with waveState := mask } : State).setVoice v
          { s.voice v with wave := { t with pos := stepped } }))

/-- A looping track keeps its overshoot: one-way it re-enters at the other bound, bidirectional it turns
round and is reflected (`40_track_advance.md` R138; that the direction tested is the one after the turn is
decision D54). And a position neither wraps round nor saturates: an advance faults exactly when the track
runs and its stepped position, or the position it would loop to, is outside `s32` (`00_scope.md` R13,
decision D15; `40_track_advance.md` R140, `60_exceptions.md` R351; that a stepped position outside faults
whatever the track does at its boundary is the model's reading, log 13). -/
def Obligations.AdvanceLoopsWithItsOvershoot : Prop :=
  (∀ (s : State) (v : Fin 32) (axis : Axis) (stepped pos : S32) (mask : Word),
    let t := (s.voice v).track axis
    let down := t.state.getLsbD 6
    let downAfter := if t.state.getLsbD 4 then !down else down
    let past := if down then t.start.toInt - stepped.toInt else stepped.toInt - t.endAt.toInt
    t.state &&& 0x03#7 = 0 → t.state.getLsbD 3 = true → 0 ≤ past →
    stepped.toInt = (if down then t.pos.toInt - t.inc.toInt else t.pos.toInt + t.inc.toInt) →
    pos.toInt = (if downAfter then t.endAt.toInt - past else t.start.toInt + past) →
    (∀ k, mask.getLsbD k = ((s.pending axis).getLsbD k || (k == v.val && t.state.getLsbD 5))) →
      s.advance v axis false = .ok (t.pos,
        (s.setVoice v ((s.voice v).setTrack axis { t with
          pos := pos
          state := if t.state.getLsbD 4 then t.state ^^^ 0x40#7 else t.state })).setPending axis mask)) ∧
  ∀ (s : State) (v : Fin 32) (axis : Axis) (suppress : Bool) (e : Fault),
    let t := (s.voice v).track axis
    let down := t.state.getLsbD 6
    let downAfter := if t.state.getLsbD 4 then !down else down
    let stepped := if down then t.pos.toInt - t.inc.toInt else t.pos.toInt + t.inc.toInt
    let past := if down then t.start.toInt - stepped else stepped - t.endAt.toInt
    let looped := if downAfter then t.endAt.toInt - past else t.start.toInt + past
    let outside := fun x : Int => x < -2147483648 ∨ 2147483647 < x
    s.advance v axis suppress = .error e ↔ e = .trackOverflow ∧ t.state &&& 0x03#7 = 0 ∧
      (outside stepped ∨
        (suppress = false ∧ t.state.getLsbD 3 = true ∧ 0 ≤ past ∧ outside looped))

/-- A looping track that is not rolled over stays within its bounds, one-way or bidirectional, if it starts
within them and its increment is positive and no longer than the loop (`40_track_advance.md` R145 with the
side conditions the spec derives). -/
def Obligations.LoopingTrackStaysWithinItsBounds : Prop :=
  ∀ (s : State) (v : Fin 32) (axis : Axis),
    let t := (s.voice v).track axis
    t.state &&& 0x03#7 = 0 → t.state.getLsbD 3 = true →
    t.start.toInt ≤ t.pos.toInt → t.pos.toInt ≤ t.endAt.toInt →
    0 < t.inc.toInt → t.inc.toInt ≤ t.endAt.toInt - t.start.toInt →
    -2147483648 ≤ t.start.toInt - t.inc.toInt → t.endAt.toInt + t.inc.toInt ≤ 2147483647 →
      ∃ u, s.advance v axis false = .ok (t.pos, u) ∧
        t.start.toInt ≤ ((u.voice v).track axis).pos.toInt ∧
        ((u.voice v).track axis).pos.toInt ≤ t.endAt.toInt

/-! ### Volume, samples, tables -/

/-- The volume index of a position is the least integer not below a 512th of it, clamped to the table
(`42_volume.md` R173; the lower clamp is decision D17). -/
def Obligations.VolumeIndexRoundsUpAndClamps : Prop :=
  ∀ p : S32, volIndex p < 4096 ∧
    (p.toInt ≤ 0 → volIndex p = 0) ∧ (4095 * 512 ≤ p.toInt → volIndex p = 4095) ∧
    (0 < p.toInt → p.toInt ≤ 4095 * 512 →
      p.toInt ≤ 512 * (volIndex p : Int) ∧ 512 * (volIndex p : Int) < p.toInt + 512)

/-- The volume table under exact numerics: silence at 0, full scale at 4095, each entry positive and the
next one `r` times it (`42_volume.md` R176 P1 to P4: decision D18); `r` is any real above 1, and above 1 in
every well-formed configuration. -/
def Obligations.VolumeTableIsGeometric : Prop :=
  (∀ p : Params, p.wellFormed = true → 1 < p.ratio) ∧
  ∀ p : Params, p.numerics = .exact → 1 < p.ratio →
    let vol (i : Nat) : ℝ := (volEntry p i).toReal
    vol 0 = 0 ∧ vol 4095 = 1 ∧
    ∀ i, 1 ≤ i → i < 4095 → 0 < vol i ∧ vol i < vol (i + 1) ∧ vol (i + 1) = p.ratio * vol i

/-- The pan table under exact numerics: the gains are the cosine and the sine of `θ(p)`, so their squares
sum to 1 at all 16 positions; position 0 is full left, 15 full right, 7 the centre (`43_voice_render.md`
R190 to R193; the arc is decision D19). -/
def Obligations.PanTableHasConstantPower : Prop :=
  ∀ q : Params, q.numerics = .exact →
    (∀ p : Fin 16,
      let norm : ℝ := if p.val < 7 then ((p.val : ℝ) - 7) / 7 else ((p.val : ℝ) - 7) / 8
      (panLeft q p).toReal = Real.cos ((norm + 1) * Real.pi / 4) ∧
      (panRight q p).toReal = Real.sin ((norm + 1) * Real.pi / 4) ∧
      (panLeft q p).toReal ^ 2 + (panRight q p).toReal ^ 2 = 1) ∧
    (panLeft q 0).toReal = 1 ∧ (panRight q 0).toReal = 0 ∧
    (panLeft q 15).toReal = 0 ∧ (panRight q 15).toReal = 1 ∧
    (panLeft q 7).toReal = √2 / 2 ∧ (panRight q 7).toReal = √2 / 2

/-- The sample of a wave position under exact numerics. At a position on or above 0 it is interpolated in
proportion to the nine fractional bits if the increment is less than one sample and the bits are not all 0,
and the sample at the address otherwise; either way it lies between the two samples, hence in the 16-bit
range (`41_sample_fetch.md` R153, R154; that the neighbour is `addr + 1` before translation is decision
D16). At a negative position it is a free value of that range (R155: decision D15, log 10). It is taken at
the position before the advance, which happens all the same (R156). -/
def Obligations.InterpolatedSampleLiesBetween : Prop :=
  (∀ (s : State) (t : Track) (p : Nat), s.params.numerics = .exact →
    let s0 : ℝ := (s.readSample t (p / 512) : Int)
    let s1 : ℝ := (s.readSample t (p / 512 + 1) : Int)
    let sample : ℝ := (s.interp t p).toReal
    (t.inc.toInt < 512 → p % 512 ≠ 0 → sample = s0 + (s1 - s0) * (p % 512 : Nat) / 512) ∧
    (512 ≤ t.inc.toInt ∨ p % 512 = 0 → sample = s0) ∧
    min s0 s1 ≤ sample ∧ sample ≤ max s0 s1 ∧ -32768 ≤ sample ∧ sample ≤ 32767) ∧
  (∀ (s : State) (v : Fin 32) (p : S32),
    (0 ≤ p.toInt → s.sampleAt v p = (s.interp (s.voice v).wave p.toInt.toNat, s)) ∧
    (p.toInt < 0 → ∃ x, s.sampleAt v p = (x, { s with draws := s.draws + 1 }) ∧
      -32768 ≤ x.toReal ∧ x.toReal ≤ 32767)) ∧
  (∀ (s t : State) (v : Fin 32) (p : S32), s.advance v .wave (s.voice v).rollover = .ok (p, t) →
    p = (s.voice v).wave.pos ∧ s.getSample v = .ok (t.sampleAt v p))

/-- A sample fetch reads one byte times 256, or two bytes little-endian at the interleaved index whose
second byte wraps at the end of RAM (`41_sample_fetch.md` R151, R152; that the wave track's `BIT16`
chooses is decision D9, the interleave's L and U are D14). -/
def Obligations.SampleFetchReadsByWidth : Prop :=
  ∀ (s : State) (t : Track) (a : Nat),
    (t.state.getLsbD 2 = false →
      s.readSample t a = (s.ramByte (BitVec.ofNat 20 (a % 0x100000))).toInt * 256) ∧
    (t.state.getLsbD 2 = true → s.params.addr16LowerBits < 20 →
      ∃ i : RamAddr,
        (∀ k, k < 20 → i.getLsbD k =
          ((a.testBit k && s.params.addr16UpperMask.getLsbD k) ||
            (decide (1 ≤ k) && decide (k ≤ s.params.addr16LowerBits) && a.testBit (k - 1)))) ∧
        s.readSample t a = (s.ramByte (i + 1) ++ s.ramByte i : BitVec 16).toInt)

/-! ### The sequencer and the output stage -/

/-- A voice both of whose tracks are disabled is skipped: the frame reads and writes nothing
(`43_voice_render.md` R197; that the test is made at every frame is decision D20). With output disabled a
`SEQ` step changes nothing (R195: decision D22). -/
def Obligations.SilentVoicesAndDisabledOutput : Prop :=
  (∀ (s : State) (v : Fin 32) (f : Nat),
    (s.voice v).wave.state &&& 0x03#7 ≠ 0 → (s.voice v).vol.state &&& 0x03#7 ≠ 0 →
      s.voiceFrame v f = .ok s) ∧
  (∀ (s : State) (n : Nat), s.outputEnabled = false → seqStep n s = .next s)

/-- A frame of a voice that is not skipped, under exact numerics (`43_voice_render.md` R194, R197, R198,
`41_sample_fetch.md` R156, `42_volume.md` R174). The wave track advances with the rollover test for
`suppress`, then the volume track without one; the sample of the wave position before (free where that is
negative, log 10), times the table entry of the volume position before, is panned and added to both
channels; nothing else is written, and an overflow of either advance is the fault. So a stopped wave track
under a running ramp repeats its standing sample, and a wave track that runs in place on a sample under a
held volume adds its sample with no track moving (`70_reset_and_hazards.md` R423). The readings are
decisions D9, D15, D16, D20, D21. -/
def Obligations.VoiceFrameAddsTheScaledSample : Prop :=
  ∀ (s : State) (v : Fin 32) (f : Nat) (a : Frame),
    let x := s.voice v
    let gain : ℝ := (volEntry s.params (volIndex x.vol.pos)).toReal
    s.params.numerics = .exact → s.acc[f]? = some a →
    x.wave.state &&& 0x03#7 = 0 ∨ x.vol.state &&& 0x03#7 = 0 →
    let first := s.advance v .wave (x.vol.state.getLsbD 2 && !x.wave.state.getLsbD 3)
    (∀ p w q u, first = .ok (p, w) → w.advance v .vol false = .ok (q, u) →
      p = x.wave.pos ∧ q = x.vol.pos ∧
      ∃ (sample : ℝ) (b : Frame),
        (0 ≤ x.wave.pos.toInt → sample = (s.interp x.wave x.wave.pos.toInt.toNat).toReal) ∧
        (-32768 ≤ sample ∧ sample ≤ 32767) ∧
        b.IsSum a s.params x.panPosition (sample * gain) ∧
        s.voiceFrame v f = .ok { u with
          acc := s.acc.set f b
          draws := if x.wave.pos.toInt < 0 then s.draws + 1 else s.draws }) ∧
    (∀ e, first = .error e → s.voiceFrame v f = .error e) ∧
    (∀ p w e, first = .ok (p, w) → w.advance v .vol false = .error e → s.voiceFrame v f = .error e) ∧
    (x.wave.state &&& 0x03#7 ≠ 0 → 0 ≤ x.wave.pos.toInt → ∀ q u, s.advance v .vol false = .ok (q, u) →
      ∃ b : Frame, b.IsSum a s.params x.panPosition
          ((s.interp x.wave x.wave.pos.toInt.toNat).toReal * gain) ∧
        s.voiceFrame v f = .ok { u with acc := s.acc.set f b } ∧ (u.voice v).wave = x.wave) ∧
    (x.wave.state &&& 0x43#7 = 0 → x.vol.state &&& 0x03#7 ≠ 0 → x.wave.inc.toInt = 0 →
      0 ≤ x.wave.pos.toInt → x.wave.pos.toInt < x.wave.endAt.toInt → x.wave.pos.toInt % 512 = 0 →
      ∃ b : Frame, b.IsSum a s.params x.panPosition
          ((s.readSample x.wave (x.wave.pos.toInt.toNat / 512) : Int) * gain) ∧
        s.voiceFrame v f = .ok { s with acc := s.acc.set f b })

/-- A `SEQ` step clears the accumulator of its `n` frames, renders the active voices in rising order, each
over all frames, and ends with the output stage and then the aggregation. It touches no voice at or above
`active_voices` and none of its pending bits, no register of the host and no byte of RAM
(`43_voice_render.md` R196). -/
def Obligations.SequencerRendersTheActiveVoicesThenOutputs : Prop :=
  ∀ (s : State) (n : Nat),
    (s.outputEnabled = true → seqStep n s =
      match ((List.finRange 32).take s.activeVoices).foldlM
        (fun (t : State) v => (List.range n).foldlM (fun (t : State) f => t.voiceFrame v f) t)
        { s with acc := List.replicate n ⟨.ofRat 0, .ofRat 0⟩ } with
      | .ok u => .next u.output.checkVoiceIrq
      | .error e => .fault e) ∧
    ∀ t : State, seqStep n s = .next t →
      (∀ v : Fin 32, s.activeVoices ≤ v.val → t.voice v = s.voice v ∧
        t.waveState.getLsbD v.val = s.waveState.getLsbD v.val ∧
        t.volState.getLsbD v.val = s.volState.getLsbD v.val) ∧
      t = { s with
        voices := t.voices, waveState := t.waveState, volState := t.volState, status := t.status
        irqStatus := t.irqStatus, acc := t.acc, peakLeft := t.peakLeft, peakRight := t.peakRight
        out := t.out, draws := t.draws }

/-- `n` frames in one `SEQ` step leave the voices and their pending bits as `n` steps of one frame do, and
each faults exactly when the other does (`43_voice_render.md` R200, the spec's own inference). -/
def Obligations.OneBatchEqualsSingleFrames : Prop :=
  ∀ (s : State) (n : Nat),
    (∀ t, seqStep n s = .next t → ∃ u, seqSingly n s = .next u ∧
      u.voices = t.voices ∧ u.waveState = t.waveState ∧ u.volState = t.volState) ∧
    (∀ u, seqSingly n s = .next u → ∃ t, seqStep n s = .next t)

/-- The output stage consumes the accumulator and pushes one pair per frame, no channel above full scale in
magnitude. Under exact numerics the peaks first take in every magnitude of the batch; if a peak is then
above full scale, each channel is scaled by `min(1, full_scale / peak)` of its own peak, and each peak
above full scale decays by `LIMIT_RELEASE`, a positive real in every well-formed configuration; the pairs
are truncated toward zero (`47_output_limiter.md` R342 to R344, R346; truncation and full scale are the
spec's from general knowledge, the release is decision D46). Under an implementation's numerics the bound
rests on the model's choice that its narrowing stays within full scale (log 17). -/
def Obligations.OutputNeverExceedsFullScale : Prop :=
  (∀ p : Params, p.wellFormed = true → 0 < p.release) ∧
  ∀ s : State, ∃ fs : List (Half × Half),
    s.output = { s with
      acc := [], peakLeft := s.output.peakLeft, peakRight := s.output.peakRight
      out := s.out ++ [.audioPush fs] } ∧
    fs.length = s.acc.length ∧ (∀ f ∈ fs, |f.1.toInt| ≤ 32767 ∧ |f.2.toInt| ≤ 32767) ∧
    (s.params.numerics = .exact →
      let pl : ℝ := (s.acc.map fun f => |f.left.toReal|).foldl max s.peakLeft.toReal
      let pr : ℝ := (s.acc.map fun f => |f.right.toReal|).foldl max s.peakRight.toReal
      let factor (peak : ℝ) : ℝ := if pl ≤ 32767 ∧ pr ≤ 32767 then 1 else min 1 (32767 / peak)
      let release (peak : ℝ) : ℝ := if peak ≤ 32767 then peak else peak - s.params.release
      (fs.map fun f => (f.1.toInt, f.2.toInt)) = (s.acc.map fun f =>
        (truncate (f.left.toReal * factor pl), truncate (f.right.toReal * factor pr))) ∧
      s.output.peakLeft.toReal = release pl ∧ s.output.peakRight.toReal = release pr)

/-! ### DMA and timers -/

/-- The gate of a scheduled transfer, with the host channel of number `dma_channel`: a masked channel or a
disabled bridge performs nothing and clears `dma_scheduled`; otherwise the transfer is attempted with that
channel's bytes (`46_dma.md` R312, `20_memory.md` R75; that bit 0 of `dma_ctrl` is the enable is decision
D32 of `30_encoding.md` R112). In a weakly fair run of the agents a scheduled attempt is taken in the end,
still scheduled (`46_dma.md` R311, `00_scope.md` R9, `70_reset_and_hazards.md` R430: decisions D1, D37). -/
def Obligations.DmaGate : Prop :=
  (∀ (s : State) (channels : Vector HostChannel 8), s.dmaScheduled = true →
    let chan := channels[s.dmaChannel]
    (chan.masked = true ∨ s.dmaCtrl.getLsbD 0 = false →
      dmaStep channels s = .next { s with dmaScheduled := false }) ∧
    (chan.masked = false → s.dmaCtrl.getLsbD 0 = true →
      dmaStep channels s = dmaTransfer chan.bytes s)) ∧
  ∀ (state : Nat → State) (move : Nat → AgentStep), IsRun state move → WeaklyFair state move →
    ∀ n, (state n).dmaScheduled = true →
      ∃ m, n ≤ m ∧ (state m).dmaScheduled = true ∧ ∃ channels, move m = .dma channels

/-- A transfer faults exactly when its byte range would pass the end of RAM; `base` is that of
`20_memory.md` R71 (its formulas are decision D33). -/
def Obligations.DmaRangeFault : Prop :=
  ∀ (s : State) (bytes : List Byte) (base : Nat),
    (if s.dmaCtrl.getLsbD 2 = true ∧ 4 ≤ s.dmaChannel.val then
      base = 16 * (2 * (s.dmaAddr.toNat % 0x2000) ||| s.dmaAddr.toNat / 0x4000 * 0x4000)
      else base = 16 * s.dmaAddr.toNat) →
      (dmaTransfer bytes s = .fault .dmaRange ↔ 0x100000 < base + bytes.length) ∧ base < 0x100000

/-- An upload stores its bytes from `base` on, with `DMA_FLIP` each with its sign flipped, or with
`DMA_PCM16` those at odd offsets only; every other byte of RAM stays; then the terminal-count IRQ is raised
and ends the chain, or the next attempt stays scheduled (`46_dma.md` R313, R315, R316; bits and stride are
decisions D32, D36). -/
def Obligations.DmaUploadStoresTheBytes : Prop :=
  ∀ (s : State) (bytes : List Byte), s.dmaCtrl.getLsbD 1 = false →
    (dmaBase s.dmaCtrl s.dmaChannel s.dmaAddr).toNat + bytes.length ≤ 0x100000 →
    ∃ m, (let u : State := { s with ram := m }
      dmaTransfer bytes s = .next (if s.dmaCtrl.getLsbD 5 then
        { ({ u with irqStatus := s.irqStatus ||| 0x80#8 } : State).checkIrq with dmaScheduled := false }
        else { u with dmaScheduled := true })) ∧
      ∀ a : RamAddr, ({ s with ram := m } : State).ramByte a =
        match bytes[a.toNat - (dmaBase s.dmaCtrl s.dmaChannel s.dmaAddr).toNat]? with
        | none => s.ramByte a
        | some b =>
          if a.toNat < (dmaBase s.dmaCtrl s.dmaChannel s.dmaAddr).toNat then s.ramByte a
          else if s.dmaCtrl.getLsbD 7 && (!s.dmaCtrl.getLsbD 6 ||
            (a.toNat - (dmaBase s.dmaCtrl s.dmaChannel s.dmaAddr).toNat) % 2 == 1)
          then b ^^^ 0x80#8 else b

/-- A download hands the host channel `dma_channel` the bytes of RAM from `base` on, as many as it moves,
and ends as an upload does; RAM is not written, and `DMA_FLIP` has no part in it (`46_dma.md` R313, R316:
the bits are decision D32, that a download ignores `DMA_FLIP` is decision D35). So a round trip through the
bridge yields identical bytes: an upload without conversion followed, with the address unchanged, by a
download of as many bytes hands the host the bytes uploaded (R318). -/
def Obligations.DmaRoundTripIsIdentity : Prop :=
  (∀ (s : State) (bytes : List Byte), s.dmaCtrl.getLsbD 1 = true →
    let base := dmaBase s.dmaCtrl s.dmaChannel s.dmaAddr
    base.toNat + bytes.length ≤ 0x100000 →
    ∃ sent : List Byte, sent.length = bytes.length ∧
      (∀ k, k < bytes.length → sent[k]? = some (s.ramByte (base + BitVec.ofNat 20 k))) ∧
      (let u : State := { s with out := s.out ++ [.hostWrite s.dmaChannel sent] }
      dmaTransfer bytes s = .next (if s.dmaCtrl.getLsbD 5 then
        { ({ u with irqStatus := s.irqStatus ||| 0x80#8 } : State).checkIrq with dmaScheduled := false }
        else { u with dmaScheduled := true }))) ∧
  ∀ (s t : State) (bytes other : List Byte) (c : Byte), s.dmaCtrl.getLsbD 1 = false →
    s.dmaCtrl.getLsbD 7 = false → dmaTransfer bytes s = .next t → other.length = bytes.length →
    c.getLsbD 1 = true → c.getLsbD 2 = s.dmaCtrl.getLsbD 2 →
      ∃ u, dmaTransfer other { t with dmaCtrl := c } = .next u ∧ u.ram = t.ram ∧
        ∃ tail, u.out = t.out ++ .hostWrite s.dmaChannel bytes :: tail

/-- A timer expiry (`60_exceptions.md` R371; the bits are decision D45): while it counts, timer `n` becomes
expired unless masked, and if configured to raises its bit and re-checks the line. While it does not count
its agent is not enabled (R370), and that an entry of the inbox for it then changes nothing is the model's
choice (log 1). -/
def Obligations.TimerExpiry : Prop :=
  ∀ s : State,
    (s.timer1.counting = false → timer1Step s = .next s) ∧
    (s.timer2.counting = false → timer2Step s = .next s) ∧
    (s.timer1.counting = true →
      let u : State := { s with timer1.expired := s.timer1.expired || !s.timer1.masked }
      timer1Step s = .next (if s.timer1.raiseIrq then
        ({ u with irqStatus := s.irqStatus ||| 0x04#8 } : State).checkIrq else u)) ∧
    (s.timer2.counting = true →
      let u : State := { s with timer2.expired := s.timer2.expired || !s.timer2.masked }
      timer2Step s = .next (if s.timer2.raiseIrq then
        ({ u with irqStatus := s.irqStatus ||| 0x08#8 } : State).checkIrq else u))

/-! ### The machine as a whole -/

/-- The state after construction, under every configuration: the POWER-ON column of `10_state.md` R46
(decision D47), but for `adlib_command`, sample RAM and the model's own fields. -/
def Obligations.PowerOnState : Prop :=
  ∀ p : Params, let s := State.powerOn p
    (∀ v, s.voice v =
      { wave := ⟨⟨0, 0⟩, ⟨0, 0⟩, ⟨0, 0⟩, ⟨0, 0⟩, 0, 0x03#7⟩
        vol := ⟨⟨0, 0⟩, ⟨0, 0⟩, ⟨0, 0⟩, ⟨0, 0⟩, 0, 0x03#7⟩
        panPosition := 7 }) ∧
    s.waveState = 0 ∧ s.volState = 0 ∧ s.status = 0 ∧ s.selectedRegister = 0 ∧ s.registerData = 0 ∧
    s.voiceIndex = 0 ∧ s.voiceSelected = false ∧ s.activeVoices = 0 ∧ s.activeVoiceMask = 0 ∧
    s.irqStatus = 0 ∧ s.irqEnabled = false ∧ s.outputEnabled = false ∧ s.dmaCtrl = 0 ∧
    s.dmaAddr = 0 ∧ s.dmaScheduled = false ∧ s.dramAddr = 0 ∧ s.mixCtrl = 0x0B#8 ∧
    s.shouldApply = false ∧ s.sampleCtrl = 0 ∧ s.timerCtrl = 0 ∧
    s.timer1 = ⟨0xFF#8, true, false, false, false⟩ ∧
    s.timer2 = ⟨0xFF#8, true, false, false, false⟩ ∧
    s.dmaChannel = p.dmaChannel ∧ s.irqNumber = p.irqNumber ∧ s.acc = [] ∧
    s.peakLeft = .ofRat 1 ∧ s.peakRight = .ofRat 1 ∧ State.reset = State.powerOn Config.defaultParams

/-- The invariant holds at power-on under every configuration. -/
def Obligations.InvariantHoldsAtPowerOn : Prop := ∀ p : Params, (State.powerOn p).Inv

/-- Every step of every agent keeps the invariant: the voice count is 0 or 14 to 32 and the mask is that of
the count (`10_state.md` R29, decision D24), the unused bits of `irq_status` read 0 (R30), sample RAM keeps
its canonical form inside the 1 MB (R39), the accumulator carries nothing between steps (R41), every
increment is the one its rate register gives and every volume bound one that a bound byte gives (R21). -/
def Obligations.EveryStepKeepsTheInvariant : Prop :=
  ∀ s t : State, s.Inv → step s = .next t → t.Inv

/-- A step never refuses but for a 16-bit access to an 8-bit port (`45_global_registers.md` R276: decision D49,
log 19) and for a byte string or a transaction that is no command, which is the model's choice (log 20): in
either case the decoder has turned the entry down for that very reason, so that no word of the opcode table
is refused. And it never faults but in a `SEQ` step by a track overflow and in a `DMA` step by the RAM range
(`60_exceptions.md` R350, R351). -/
def Obligations.OnlyTheNamedStops : Prop :=
  ∀ s : State,
    (∀ e, step s = .fault e → (e = .trackOverflow ∧ ∃ n rest, s.inbox = .seq n :: rest) ∨
      (e = .dmaRange ∧ ∃ channels rest, s.inbox = .dma channels :: rest)) ∧
    (∀ e, step s = .refused e → ∃ r : Reject,
      ((e = .malformedCommand ∧ r = .malformed) ∨ (e = .wideAccess ∧ r = .wideAccess)) ∧
      ((∃ bytes rest, s.inbox = .command bytes :: rest ∧ decode bytes = .error r) ∨
        ∃ t rest, s.inbox = .bus t :: rest ∧ decodeTransaction s.params.portBase t = .error r)) ∧
    (∀ i rest, i.wellFormed = true → s.inbox = .command (encode i) :: rest → ∀ e, step s ≠ .refused e)
end

