-- ==== Sys2Proof/Laws/CosSum.lean ====
section
/-! SUPPORT. The sums of cosines are the real numbers they stand for: sums, products, multiples and the sign
(`00_scope.md` R14, log 15). -/

namespace Sys2Proof

open Real

/-! ### Sums and multiples -/

/-- A sum over terms, with a value for each angle. -/
theorem sum_insertTerm (f : Nat → ℝ) (k : Nat) (q : Rat) : ∀ ts : List (Nat × Rat),
    ((insertTerm k q ts).map fun t => (t.2 : ℝ) * f t.1).sum =
      (q : ℝ) * f k + (ts.map fun t => (t.2 : ℝ) * f t.1).sum
  | [] => by
    unfold insertTerm
    split <;> simp_all
  | (j, r) :: ts => by
    unfold insertTerm
    split
    · split <;> simp_all
    · split
      · rename_i h
        subst h
        split
        · rename_i h
          have : (r : ℝ) + q = 0 := by exact_mod_cast h
          simp only [List.map_cons, List.sum_cons]
          linear_combination (-(f k)) * this
        · simp only [List.map_cons, List.sum_cons]
          push_cast
          ring
      · simp only [List.map_cons, List.sum_cons, sum_insertTerm f k q ts]
        ring

@[simp] theorem CosSum.toReal_zero : CosSum.zero.toReal = 0 := rfl

@[simp] theorem CosSum.toReal_ofRat (q : Rat) : (CosSum.ofRat q).toReal = q := by
  simpa [toReal, ofRat] using sum_insertTerm (fun k => cos (k * (π / 224))) 0 q []

@[simp] theorem CosSum.toReal_cosine {k : Nat} (h : k ≤ 112) :
    (CosSum.cosine k).toReal = cos (k * (π / 224)) := by
  unfold cosine
  split
  · simp [toReal]
  · obtain rfl : k = 112 := by omega
    rw [toReal_zero, eq_comm, ← cos_pi_div_two]
    congr 1
    push_cast
    ring

@[simp] theorem CosSum.toReal_add (x y : CosSum) : (x.add y).toReal = x.toReal + y.toReal := by
  suffices h : ∀ xs : List (Nat × Rat),
      ((xs.foldr (fun t ts => insertTerm t.1 t.2 ts) y.terms).map
        fun t => (t.2 : ℝ) * cos (t.1 * (π / 224))).sum =
      (xs.map fun t => (t.2 : ℝ) * cos (t.1 * (π / 224))).sum + y.toReal from h x.terms
  intro xs
  induction xs with
  | nil => simp [toReal]
  | cons t ts ih =>
    rw [List.foldr_cons, sum_insertTerm (fun k => cos (k * (π / 224))), ih, List.map_cons,
      List.sum_cons, add_assoc]

@[simp] theorem CosSum.toReal_scale (q : Rat) (x : CosSum) : (x.scale q).toReal = q * x.toReal := by
  unfold scale
  split
  · simp_all
  · unfold toReal
    rw [List.map_map, ← List.sum_map_mul_left]
    congr 1
    apply List.map_congr_left
    intro t _
    simp [mul_assoc]

theorem CosSum.sum_insertProduct (s t : Nat × Rat) (ts : List (Nat × Rat)) :
    ((insertProduct s t ts).map fun t => (t.2 : ℝ) * cos (t.1 * (π / 224))).sum =
      (s.2 : ℝ) * cos (s.1 * (π / 224)) * ((t.2 : ℝ) * cos (t.1 * (π / 224))) +
        (ts.map fun t => (t.2 : ℝ) * cos (t.1 * (π / 224))).sum := by
  have hd : cos (((s.1 - t.1 + (t.1 - s.1) : ℕ) : ℝ) * (π / 224)) =
      cos (s.1 * (π / 224) - t.1 * (π / 224)) := by
    rcases le_total s.1 t.1 with h | h
    · rw [Nat.sub_eq_zero_of_le h, zero_add, Nat.cast_sub h, sub_mul, ← cos_neg, neg_sub]
    · rw [Nat.sub_eq_zero_of_le h, add_zero, Nat.cast_sub h, sub_mul]
  rw [insertProduct, sum_insertTerm (fun k => cos (k * (π / 224))),
    sum_insertTerm (fun k => cos (k * (π / 224))), hd, cos_sub]
  push_cast
  rw [add_mul, cos_add]
  ring

@[simp] theorem CosSum.toReal_mul (x y : CosSum) : (x.mul y).toReal = x.toReal * y.toReal := by
  have inner : ∀ (s : Nat × Rat) (ys ts : List (Nat × Rat)),
      ((ys.foldr (insertProduct s) ts).map fun t => (t.2 : ℝ) * cos (t.1 * (π / 224))).sum =
        (s.2 : ℝ) * cos (s.1 * (π / 224)) * (ys.map fun t => (t.2 : ℝ) * cos (t.1 * (π / 224))).sum +
          (ts.map fun t => (t.2 : ℝ) * cos (t.1 * (π / 224))).sum := by
    intro s ys ts
    induction ys with
    | nil => simp
    | cons t ys ih =>
      rw [List.foldr_cons, sum_insertProduct, ih, List.map_cons, List.sum_cons]
      ring
  unfold toReal mul
  induction x.terms with
  | nil => simp
  | cons s xs ih =>
    simp only at ih ⊢
    rw [List.foldr_cons, inner, ih, List.map_cons, List.sum_cons, add_mul]

/-! ### The bits of `cos (π / 224)` -/

theorem chebyshev_eq {m d : Int} {φ : ℝ} (h : (m : ℝ) = d * cos φ) : ∀ k : Nat,
    ((chebyshev m d k).1 : ℝ) = d ^ k * cos (k * φ) ∧
      ((chebyshev m d k).2 : ℝ) = d ^ (k + 1) * cos ((k + 1 : ℕ) * φ)
  | 0 => by simp [chebyshev, h]
  | k + 1 => by
    obtain ⟨h1, h2⟩ := chebyshev_eq h k
    refine ⟨h2, ?_⟩
    simp only [chebyshev]
    push_cast at h2 ⊢
    rw [h1, h2, h, show ((k : ℝ) + 1 + 1) * φ = (k + 1) * φ + φ by ring,
      show (k : ℝ) * φ = (k + 1) * φ - φ by ring, cos_add, cos_sub]
    ring

/-- Between 0.9992 and 1, `cos (112 arccos x)` is not positive exactly up to `cos (π / 224)`. -/
theorem cos_mul_arccos_nonpos_iff {x : ℝ} (h1 : 9992 / 10000 ≤ x) (h2 : x ≤ 1) :
    cos (112 * arccos x) ≤ 0 ↔ x ≤ cos (π / 224) := by
  have hpi := pi_pos
  have hφ0 := arccos_nonneg x
  have hφ : cos (arccos x) = x := cos_arccos (by linarith) h2
  have hlt : arccos x < 3 * π / 224 := by
    by_contra hc
    have hmono : cos (arccos x) ≤ cos (3 * π / 224) :=
      cos_le_cos_of_nonneg_of_le_pi (by positivity) (arccos_le_pi x) (not_lt.1 hc)
    rw [hφ] at hmono
    have := cos_lt_one_div_sqrt_sq_add_one (x := 3 * π / 224) (by linarith) (by linarith)
      (by positivity)
    have hp3 := pi_gt_d2
    have hs : 1 / √((3 * π / 224) ^ 2 + 1) < 9992 / 10000 := by
      rw [div_lt_iff₀ (by positivity), ← div_lt_iff₀' (by norm_num)]
      apply lt_sqrt_of_sq_lt
      nlinarith
    linarith
  constructor
  · intro h
    have : π / 224 ≤ arccos x := by
      by_contra hc
      have := not_le.1 hc
      have : 0 < cos (112 * arccos x) := cos_pos_of_mem_Ioo ⟨by linarith, by linarith⟩
      linarith
    calc x = cos (arccos x) := hφ.symm
      _ ≤ cos (π / 224) := cos_le_cos_of_nonneg_of_le_pi (by positivity) (arccos_le_pi x) this
  · intro h
    have : π / 224 ≤ arccos x := by
      have := arccos_le_arccos h
      rwa [arccos_cos (by positivity) (by linarith)] at this
    exact cos_nonpos_of_pi_div_two_le_of_le (by linarith) (by linarith)

theorem chebyshev_nonpos_iff {m d : Nat} (hd : 0 < d) (h1 : 9992 * d ≤ 10000 * m) (h2 : m ≤ d) :
    (chebyshev m d 112).1 ≤ 0 ↔ (m : ℝ) / d ≤ cos (π / 224) := by
  have hd' : (0 : ℝ) < d := by exact_mod_cast hd
  have a1 : 9992 / 10000 ≤ (m : ℝ) / d := by
    have : (9992 : ℝ) * d ≤ 10000 * m := by exact_mod_cast h1
    rw [le_div_iff₀ hd']
    linarith
  have a2 : (m : ℝ) / d ≤ 1 := by
    rw [div_le_one hd']
    exact_mod_cast h2
  have hc := (chebyshev_eq (m := m) (d := d) (φ := arccos ((m : ℝ) / d)) (by
    rw [cos_arccos (by linarith) a2]
    push_cast
    field_simp) 112).1
  have hp : (0 : ℝ) < (d : ℝ) ^ 112 := by positivity
  rw [← cos_mul_arccos_nonpos_iff a1 a2, ← Int.cast_nonpos (R := ℝ), hc]
  push_cast
  refine ⟨fun h => not_lt.1 fun hn => ?_, fun h => mul_nonpos_of_nonneg_of_nonpos hp.le h⟩
  have := mul_pos hp hn
  linarith

/-- The bits are the cosine, cut off. -/
theorem cosineBits_spec : ∀ j,
    9992 * 2 ^ (64 + j) ≤ 10000 * cosineBits j ∧ cosineBits j + 1 ≤ 2 ^ (64 + j) ∧
      (cosineBits j : ℝ) / (2 ^ (64 + j) : ℕ) ≤ cos (π / 224) ∧
      cos (π / 224) < ((cosineBits j + 1 : ℕ) : ℝ) / (2 ^ (64 + j) : ℕ)
  | 0 => by
    refine ⟨by decide, by decide, ?_, ?_⟩
    · exact (chebyshev_nonpos_iff (m := cosineBits 0) (d := 2 ^ 64) (by decide) (by decide)
        (by decide)).1 (by decide +kernel)
    · rw [← not_le]
      exact (chebyshev_nonpos_iff (m := cosineBits 0 + 1) (d := 2 ^ 64) (by decide) (by decide)
        (by decide)).not.1 (by decide +kernel)
  | j + 1 => by
    obtain ⟨h1, h2, h3, h4⟩ := cosineBits_spec j
    have e : 2 ^ (64 + (j + 1)) = 2 * 2 ^ (64 + j) := by rw [← add_assoc, pow_succ]; ring
    have key := chebyshev_nonpos_iff (m := 2 * cosineBits j + 1) (d := 2 ^ (64 + (j + 1)))
      (by positivity) (by omega) (by omega)
    have hh : ∀ a : ℝ, (2 * a) / (2 * 2 ^ (64 + j)) = a / 2 ^ (64 + j) := fun a =>
      mul_div_mul_left _ _ two_ne_zero
    have e2 : (2 : ℝ) ^ (64 + (j + 1)) = 2 * 2 ^ (64 + j) := by exact_mod_cast e
    rw [Nat.cast_add, Nat.cast_mul, Nat.cast_one, Nat.cast_ofNat] at key
    rw [cosineBits]
    push_cast at h3 h4 key ⊢
    split
    · rename_i hm
      refine ⟨by omega, by omega, key.1 hm, ?_⟩
      rw [e2, show (2 * (cosineBits j : ℝ) + 1 + 1) = 2 * (cosineBits j + 1) by ring, hh]
      exact h4
    · rename_i hm
      refine ⟨by omega, by omega, ?_, ?_⟩
      · rw [e2, hh]
        exact h3
      · exact not_le.1 fun hc => hm (key.2 hc)

/-! ### The bounds of a value -/

theorem abs_sin_mul_le (k : Nat) (a : ℝ) : |sin (k * a)| ≤ k * |sin a| := by
  induction k with
  | zero => simp
  | succ k ih =>
    push_cast
    rw [add_mul, one_mul, sin_add, add_mul, one_mul]
    refine (abs_add_le _ _).trans (add_le_add ?_ ?_)
    · rw [abs_mul]
      exact (mul_le_of_le_one_right (abs_nonneg _) (abs_cos_le_one _)).trans ih
    · rw [abs_mul]
      exact mul_le_of_le_one_left (abs_nonneg _) (abs_cos_le_one _)

/-- As a function of `cos a`, `cos (k a)` has slopes of at most `k ^ 2`. -/
theorem abs_cos_mul_sub_le (k : Nat) (a b : ℝ) :
    |cos (k * a) - cos (k * b)| ≤ k ^ 2 * |cos a - cos b| := by
  rw [cos_sub_cos, cos_sub_cos, show ((k : ℝ) * a + k * b) / 2 = k * ((a + b) / 2) by ring,
    show ((k : ℝ) * a - k * b) / 2 = k * ((a - b) / 2) by ring]
  have := mul_le_mul (abs_sin_mul_le k ((a + b) / 2)) (abs_sin_mul_le k ((a - b) / 2))
    (abs_nonneg _) (by positivity)
  simp only [abs_mul, abs_neg, Nat.abs_ofNat]
  nlinarith

theorem CosSum.abs_toReal_sub_approx_le (x : CosSum) (j : Nat) :
    |x.toReal - (x.approx (cosineBits j) (2 ^ (64 + j)) : ℝ)| ≤ (x.error (2 ^ (64 + j)) : ℝ) := by
  obtain ⟨h1, h2, h3, h4⟩ := cosineBits_spec j
  unfold toReal approx error
  generalize hd : 2 ^ (64 + j) = d at *
  generalize cosineBits j = m at *
  have hd0 : 0 < d := by rw [← hd]; positivity
  have hd' : (0 : ℝ) < d := by exact_mod_cast hd0
  have b0 : (0 : ℝ) ≤ (m : ℝ) / d := by positivity
  have b1 : (m : ℝ) / d ≤ 1 := h3.trans (cos_le_one _)
  have hφ : cos (arccos ((m : ℝ) / d)) = (m : ℝ) / d := cos_arccos (by linarith) b1
  have hm : ((m : ℤ) : ℝ) = (d : ℤ) * cos (arccos ((m : ℝ) / d)) := by
    rw [hφ]
    push_cast
    field_simp
  have hc : |cos (π / 224) - cos (arccos ((m : ℝ) / d))| ≤ 1 / d := by
    rw [hφ, abs_of_nonneg (by linarith)]
    have : (((m + 1 : ℕ) : ℝ)) / d = m / d + 1 / d := by push_cast; ring
    linarith
  have ht : ∀ k : Nat, ((mkRat (chebyshev m d k).1 (d ^ k) : ℚ) : ℝ) =
      cos (k * arccos ((m : ℝ) / d)) := fun k => by
    have := (chebyshev_eq hm k).1
    rw [Rat.mkRat_eq_div]
    push_cast at this ⊢
    rw [this]
    field_simp
  induction x.terms with
  | nil => simp
  | cons t ts ih =>
    simp only [List.map_cons, List.sum_cons, add_div, Rat.cast_add, Rat.cast_mul, Rat.cast_div, Rat.cast_abs,
      Rat.cast_natCast, Rat.cast_pow, Nat.cast_pow, ht] at ih ⊢
    have h := abs_cos_mul_sub_le t.1 (π / 224) (arccos ((m : ℝ) / d))
    have h' : |(t.2 : ℝ) * cos (t.1 * (π / 224)) - t.2 * cos (t.1 * arccos ((m : ℝ) / d))| ≤
        |(t.2 : ℝ)| * (t.1 : ℝ) ^ 2 / d := by
      calc _ = |(t.2 : ℝ)| * |cos (t.1 * (π / 224)) - cos (t.1 * arccos ((m : ℝ) / d))| := by
            rw [← mul_sub, abs_mul]
        _ ≤ |(t.2 : ℝ)| * ((t.1 : ℝ) ^ 2 * (1 / d)) := by gcongr; exact h.trans (by gcongr)
        _ = _ := by ring
    rw [add_sub_add_comm]
    exact (abs_add_le _ _).trans (add_le_add h' ih)

/-- A sign that is found is right. -/
theorem CosSum.signFrom_sound (x : CosSum) : ∀ fuel j : Nat,
    (x.signFrom fuel j = 1 → 0 < x.toReal) ∧ (x.signFrom fuel j = -1 → x.toReal < 0)
  | 0, j => by simp [signFrom]
  | fuel + 1, j => by
    have h := abs_le.1 (x.abs_toReal_sub_approx_le j)
    unfold signFrom
    simp only
    split
    · rename_i ha
      have : (x.error (2 ^ (64 + j)) : ℝ) < x.approx (cosineBits j) (2 ^ (64 + j)) := by exact_mod_cast ha
      refine ⟨fun _ => by linarith, fun hc => absurd hc (by decide)⟩
    · split
      · rename_i ha
        have : (x.approx (cosineBits j) (2 ^ (64 + j)) : ℝ) < -x.error (2 ^ (64 + j)) := by exact_mod_cast ha
        refine ⟨fun hc => absurd hc (by decide), fun _ => by linarith⟩
      · exact signFrom_sound x fuel _

/-! ### A number that is not 0 is not too small

Times `2 D`, where `D` clears the denominators, it is an algebraic integer of `ℚ(ζ)` with `ζ ^ 448 = 1`: the
product of its conjugates is a rational integer that is not 0, and each conjugate is at most the height. -/

/-- The root of unity whose powers have the cosines as real parts. -/
noncomputable def rootOfUnity : ℂ := Complex.exp ((2 * (π / 448) : ℝ) * Complex.I)

theorem rootOfUnity_pow : rootOfUnity ^ 448 = 1 := by
  rw [rootOfUnity, ← Complex.exp_nat_mul, ← Complex.exp_two_pi_mul_I]
  congr 1
  push_cast
  ring

theorem isIntegral_rootOfUnity : IsIntegral ℤ rootOfUnity :=
  IsIntegral.of_pow (n := 448) (by decide) (by rw [rootOfUnity_pow]; exact isIntegral_one)

theorem rootOfUnity_pow_add (k : Nat) :
    rootOfUnity ^ k + rootOfUnity⁻¹ ^ k = ((2 * cos (k * (π / 224)) : ℝ) : ℂ) := by
  rw [rootOfUnity, ← Complex.exp_neg, ← Complex.exp_nat_mul, ← Complex.exp_nat_mul]
  push_cast
  rw [Complex.two_cos]
  congr 2 <;> ring

theorem natDegree_minpoly_le (n : Nat) (hn : n ≠ 0) (x : ℂ) (hx : x ^ n = 1) :
    (minpoly ℚ x).natDegree ≤ n := by
  have hd : minpoly ℚ x ∣ Polynomial.X ^ n - Polynomial.C 1 :=
    minpoly.dvd ℚ _ (by simp [hx])
  exact (Polynomial.natDegree_le_of_dvd hd (Polynomial.X_pow_sub_C_ne_zero (Nat.pos_of_ne_zero hn)
    (1 : ℚ))).trans_eq Polynomial.natDegree_X_pow_sub_C

open IntermediateField in
theorem one_le_abs_mul_pow_of_ne_zero (a : List (Nat × ℤ)) (S : ℝ) (hS : 1 ≤ S)
    (hb : 2 * (a.map fun t => |(t.2 : ℝ)|).sum ≤ S)
    (h0 : (a.map fun t => (t.2 : ℝ) * (2 * cos (t.1 * (π / 224)))).sum ≠ 0) :
    1 ≤ |(a.map fun t => (t.2 : ℝ) * (2 * cos (t.1 * (π / 224)))).sum| * S ^ 447 := by
  have hint : IsIntegral ℚ rootOfUnity := isIntegral_rootOfUnity.tower_top
  let K := ℚ⟮rootOfUnity⟯
  have : FiniteDimensional ℚ K := adjoin.finiteDimensional hint
  let z : K := AdjoinSimple.gen ℚ rootOfUnity
  have hz : z ^ 448 = 1 := by
    apply (algebraMap K ℂ).injective
    rw [map_pow, AdjoinSimple.algebraMap_gen, rootOfUnity_pow, map_one]
  let β : K := (a.map fun t => (t.2 : K) * (z ^ t.1 + z⁻¹ ^ t.1)).sum
  have hβ : ∀ σ : K →ₐ[ℚ] ℂ, σ β = (a.map fun t => (t.2 : ℂ) * (σ z ^ t.1 + (σ z)⁻¹ ^ t.1)).sum := by
    intro σ
    simp [β, map_list_sum, Function.comp_def]
  let ι : K →ₐ[ℚ] ℂ := (algebraMap K ℂ).toRatAlgHom
  have hι : ι β =
      (((a.map fun t => (t.2 : ℝ) * (2 * cos (t.1 * (π / 224)))).sum : ℝ) : ℂ) := by
    refine (hβ ι).trans ?_
    have : ι z = rootOfUnity := AdjoinSimple.algebraMap_gen ℚ rootOfUnity
    rw [this, ← Complex.ofRealHom_eq_coe, map_list_sum, List.map_map]
    congr 1
    apply List.map_congr_left
    intro t _
    rw [rootOfUnity_pow_add]
    simp
  have hle : ∀ σ : K →ₐ[ℚ] ℂ, ‖σ β‖ ≤ S := by
    intro σ
    have hn : ‖σ z‖ = 1 := by
      apply Complex.norm_eq_one_of_pow_eq_one (n := 448) _ (by decide)
      rw [← map_pow, hz, map_one]
    rw [hβ]
    refine le_trans ?_ hb
    generalize a = a
    induction a with
    | nil => simp
    | cons t ts ih =>
      simp only [List.map_cons, List.sum_cons]
      rw [mul_add (2 : ℝ)]
      refine (norm_add_le _ _).trans (add_le_add ?_ ih)
      have h2 : ‖σ z ^ t.1 + (σ z)⁻¹ ^ t.1‖ ≤ 2 := by
        refine (norm_add_le _ _).trans (le_of_eq ?_)
        rw [norm_pow, norm_pow, norm_inv, hn]
        norm_num
      rw [norm_mul, Complex.norm_intCast, mul_comm]
      gcongr
  have hcard : Fintype.card (K →ₐ[ℚ] ℂ) ≤ 448 := by
    rw [AlgHom.card, adjoin.finrank hint]
    exact natDegree_minpoly_le 448 (by norm_num) _ rootOfUnity_pow
  have hzi : IsIntegral ℤ z := IsIntegral.of_pow (n := 448) (by decide) (by rw [hz]; exact isIntegral_one)
  have hzi' : IsIntegral ℤ z⁻¹ :=
    IsIntegral.of_pow (n := 448) (by decide) (by rw [inv_pow, hz, inv_one]; exact isIntegral_one)
  have hβi : IsIntegral ℤ β := by
    show (a.map fun t => (t.2 : K) * (z ^ t.1 + z⁻¹ ^ t.1)).sum ∈ integralClosure ℤ K
    refine Subalgebra.list_sum_mem _ fun x hx => ?_
    obtain ⟨t, -, rfl⟩ := List.mem_map.1 hx
    exact mul_mem (intCast_mem _ _) (add_mem (pow_mem hzi _) (pow_mem hzi' _))
  have hβ0 : β ≠ 0 := by
    intro hc
    rw [hc, map_zero] at hι
    exact h0 (by exact_mod_cast hι.symm)
  obtain ⟨n, hn⟩ := IsIntegrallyClosed.isIntegral_iff.1 (Algebra.isIntegral_norm ℚ hβi)
  have hn0 : n ≠ 0 := by
    rintro rfl
    exact hβ0 (Algebra.norm_eq_zero_iff.1 (by rw [← hn, map_zero]))
  have hprod := Algebra.norm_eq_prod_embeddings ℚ ℂ β
  rw [← hn] at hprod
  have h1 : (1 : ℝ) ≤ ∏ σ : K →ₐ[ℚ] ℂ, ‖σ β‖ := by
    have h := congrArg norm hprod
    rw [norm_prod] at h
    rw [← h]
    simpa using (by exact_mod_cast Int.one_le_abs hn0 : (1 : ℝ) ≤ |(n : ℝ)|)
  classical
  rw [← Finset.mul_prod_erase Finset.univ (fun σ : K →ₐ[ℚ] ℂ => ‖σ β‖) (Finset.mem_univ ι), hι,
    Complex.norm_real, Real.norm_eq_abs] at h1
  refine h1.trans (mul_le_mul_of_nonneg_left ?_ (abs_nonneg _))
  calc ∏ σ ∈ Finset.univ.erase ι, ‖σ β‖ ≤ ∏ σ ∈ Finset.univ.erase ι, S :=
        Finset.prod_le_prod (fun _ _ => norm_nonneg _) fun σ _ => hle σ
    _ = S ^ (Fintype.card (K →ₐ[ℚ] ℂ) - 1) := by
        rw [Finset.prod_const, Finset.card_erase_of_mem (Finset.mem_univ _), Finset.card_univ]
    _ ≤ S ^ 447 := pow_le_pow_right₀ hS (by omega)

/-- A value is at least this far from 0, unless it is 0. -/
theorem CosSum.one_le_abs_toReal_mul (x : CosSum) (h0 : x.toReal ≠ 0) :
    1 ≤ x.height ∧
      1 ≤ 2 * (x.commonDen : ℝ) * |x.toReal| * (x.height : ℝ) ^ 447 := by
  have hdvd : ∀ t ∈ x.terms, t.2.den ∣ (x.terms.map fun t => t.2.den).prod := fun t ht =>
    List.dvd_prod (List.mem_map_of_mem ht)
  have hpos : (0 : ℝ) < ((x.terms.map fun t => t.2.den).prod : ℕ) := by
    have : 0 < (x.terms.map fun t => t.2.den).prod := by
      refine Nat.pos_of_ne_zero (List.prod_ne_zero fun h => ?_)
      obtain ⟨t, -, ht⟩ := List.mem_map.1 h
      exact t.2.den_nz ht
    exact_mod_cast this
  unfold height toReal at *
  unfold commonDen at *
  generalize (x.terms.map fun t => t.2.den).prod = D at *
  generalize x.terms = ts at *
  let a : List (Nat × ℤ) := ts.map fun t => (t.1, t.2.num * (D / t.2.den : ℕ))
  have ha : ∀ t ∈ ts, ((t.2.num * (D / t.2.den : ℕ) : ℤ) : ℝ) = D * (t.2 : ℝ) := by
    intro t ht
    have hd : (t.2.den : ℝ) ≠ 0 := by exact_mod_cast t.2.den_nz
    have hq : (t.2 : ℝ) = t.2.num / t.2.den := Rat.cast_def t.2
    obtain ⟨c, rfl⟩ := hdvd t ht
    rw [Nat.mul_div_cancel_left _ t.2.den_pos, hq]
    push_cast
    field_simp
  have hsum : (a.map fun t => (t.2 : ℝ) * (2 * cos (t.1 * (π / 224)))).sum =
      2 * D * (ts.map fun t => (t.2 : ℝ) * cos (t.1 * (π / 224))).sum := by
    rw [List.map_map, ← List.sum_map_mul_left]
    congr 1
    apply List.map_congr_left
    intro t ht
    simp only [Function.comp_apply, ha t ht]
    ring
  have habs : 2 * (a.map fun t => |(t.2 : ℝ)|).sum ≤
      ((2 * D * (ts.map fun t => t.2.num.natAbs * (t.1 + 1) ^ 2).sum : ℕ) : ℝ) := by
    rw [List.map_map, Nat.cast_mul, Nat.cast_mul, mul_assoc, Nat.cast_list_sum, List.map_map,
      ← List.sum_map_mul_left _ _ (D : ℝ), Nat.cast_ofNat]
    refine mul_le_mul_of_nonneg_left ?_ (zero_le_two (α := ℝ))
    apply List.sum_le_sum
    intro t ht
    have hd : (1 : ℝ) ≤ t.2.den := by exact_mod_cast t.2.den_pos
    have hq : |(t.2 : ℝ)| ≤ t.2.num.natAbs := by
      rw [Rat.cast_def t.2, abs_div, Nat.abs_cast, Nat.cast_natAbs, Int.cast_abs]
      exact div_le_self (abs_nonneg _) hd
    have hk : (1 : ℝ) ≤ ((t.1 : ℝ) + 1) ^ 2 := one_le_pow₀ (by linarith [Nat.cast_nonneg (α := ℝ) t.1])
    simp only [Function.comp_apply]
    rw [ha t ht, abs_mul, abs_of_pos hpos]
    push_cast
    refine mul_le_mul_of_nonneg_left ?_ hpos.le
    refine (hq.trans_eq (mul_one _).symm).trans ?_
    exact (mul_le_mul_of_nonneg_left hk (Nat.cast_nonneg _)).trans_eq rfl
  have h1 : 1 ≤ 2 * D * (ts.map fun t => t.2.num.natAbs * (t.1 + 1) ^ 2).sum := by
    refine Nat.one_le_iff_ne_zero.2 fun hc => ?_
    rw [hc, Nat.cast_zero] at habs
    have hz : ∀ y ∈ a.map fun t => |(t.2 : ℝ)|, y = 0 := by
      have hnn : ∀ y ∈ a.map fun t => |(t.2 : ℝ)|, 0 ≤ y := by
        intro y hy
        obtain ⟨t, -, rfl⟩ := List.mem_map.1 hy
        exact abs_nonneg _
      exact fun y => List.all_zero_of_le_zero_le_of_sum_eq_zero hnn
        (le_antisymm (by linarith) (List.sum_nonneg hnn))
    have : (a.map fun t => (t.2 : ℝ) * (2 * cos (t.1 * (π / 224)))).sum = 0 := by
      apply List.sum_eq_zero
      intro y hy
      obtain ⟨t, ht, rfl⟩ := List.mem_map.1 hy
      have := abs_eq_zero.1 (hz _ (List.mem_map_of_mem ht))
      simp [this]
    rw [hsum] at this
    rcases mul_eq_zero.1 this with h | h
    · linarith
    · exact h0 h
  refine ⟨h1, ?_⟩
  have key := one_le_abs_mul_pow_of_ne_zero a _ (by exact_mod_cast h1) habs (by
    rw [hsum]
    exact mul_ne_zero (by linarith) h0)
  rw [hsum, abs_mul, abs_of_pos (by linarith : (0 : ℝ) < 2 * D)] at key
  exact key

theorem CosSum.error_le (x : CosSum) (d : Nat) :
    (x.commonDen : ℝ) * (2 * (x.error d : ℝ)) ≤ x.height / d := by
  have hs : (((x.terms.map fun t => |t.2| * ((t.1 ^ 2 : Nat) : Rat)).sum : ℚ) : ℝ) ≤
      ((x.terms.map fun t => t.2.num.natAbs * (t.1 + 1) ^ 2).sum : ℕ) := by
    rw [Nat.cast_list_sum, List.map_map, ← Rat.coe_castHom, map_list_sum, List.map_map]
    refine List.sum_le_sum fun t _ => ?_
    have hd : (1 : ℝ) ≤ t.2.den := by exact_mod_cast t.2.den_pos
    have hq : |(t.2 : ℝ)| ≤ t.2.num.natAbs := by
      rw [Rat.cast_def t.2, abs_div, Nat.abs_cast, Nat.cast_natAbs, Int.cast_abs]
      exact div_le_self (abs_nonneg _) hd
    simp only [Function.comp_apply, Rat.coe_castHom]
    push_cast
    exact mul_le_mul hq (by gcongr; linarith) (by positivity) (by positivity)
  unfold error height
  push_cast at hs ⊢
  rw [← mul_div_assoc, ← mul_div_assoc]
  gcongr ?_ / _
  rw [← mul_assoc, mul_comm (x.commonDen : ℝ) 2]
  exact mul_le_mul_of_nonneg_left hs (by positivity)

/-- Where the bounds are narrow enough, the sign of a number that is not 0 is found. -/
theorem CosSum.signFrom_ne_zero (x : CosSum) (h0 : x.toReal ≠ 0) : ∀ fuel j : Nat,
    2 * x.height ^ 448 < 2 ^ ((64 + j) * 2 ^ fuel) → x.signFrom (fuel + 1) j ≠ 0 := by
  intro fuel
  induction fuel with
  | zero =>
    intro j hj
    rw [pow_zero, mul_one] at hj
    obtain ⟨h1, h2⟩ := x.one_le_abs_toReal_mul h0
    have hb := abs_le.1 (x.abs_toReal_sub_approx_le j)
    have he := x.error_le (2 ^ (64 + j))
    set D : ℝ := (x.commonDen : ℝ) with hD
    have hD0 : 0 ≤ D := by rw [hD]; positivity
    have hS : (1 : ℝ) ≤ x.height := by exact_mod_cast h1
    have hd : 2 * (x.height : ℝ) ^ 448 < ((2 ^ (64 + j) : ℕ) : ℝ) := by exact_mod_cast hj
    have hfar : 2 * (x.error (2 ^ (64 + j)) : ℝ) < |x.toReal| := by
      by_contra hc
      have hc := mul_le_mul_of_nonneg_left (not_lt.1 hc) hD0
      have h3 : D * |x.toReal| ≤ x.height / ((2 ^ (64 + j) : ℕ) : ℝ) := hc.trans he
      have hdpos : (0 : ℝ) < ((2 ^ (64 + j) : ℕ) : ℝ) := by positivity
      rw [le_div_iff₀ hdpos] at h3
      have h4 : ((2 ^ (64 + j) : ℕ) : ℝ) ≤ 2 * (x.height : ℝ) ^ 448 := by
        calc ((2 ^ (64 + j) : ℕ) : ℝ)
            ≤ ((2 ^ (64 + j) : ℕ) : ℝ) * (2 * D * |x.toReal| * (x.height : ℝ) ^ 447) :=
              le_mul_of_one_le_right hdpos.le h2
          _ = 2 * (D * |x.toReal| * ((2 ^ (64 + j) : ℕ) : ℝ)) * (x.height : ℝ) ^ 447 := by ring
          _ ≤ 2 * x.height * (x.height : ℝ) ^ 447 := by gcongr
          _ = 2 * (x.height : ℝ) ^ 448 := by ring
      linarith
    unfold signFrom
    simp only
    split
    · decide
    · rename_i ha
      rw [if_pos]
      · decide
      · have ha' : (x.approx (cosineBits j) (2 ^ (64 + j)) : ℝ) ≤ x.error (2 ^ (64 + j)) := by
          exact_mod_cast not_lt.1 ha
        have : (x.approx (cosineBits j) (2 ^ (64 + j)) : ℝ) < -x.error (2 ^ (64 + j)) := by
          rcases lt_abs.1 hfar with h | h <;> linarith
        exact_mod_cast this
  | succ fuel ih =>
    intro j hj
    unfold signFrom
    simp only
    split
    · decide
    · split
      · decide
      · apply ih
        rwa [show 64 + (2 * j + 64) = (64 + j) * 2 by ring, mul_assoc, ← pow_succ']

theorem CosSum.height_lt (x : CosSum) :
    2 * x.height ^ 448 < 2 ^ ((64 + 0) * 2 ^ (Nat.log2 (Nat.log2 x.height) + 4)) := by
  set L := Nat.log2 x.height with hL
  have h1 : x.height < 2 ^ (L + 1) := Nat.lt_log2_self
  have h2 : L < 2 ^ (Nat.log2 L + 1) := Nat.lt_log2_self
  calc 2 * x.height ^ 448 < 2 * (2 ^ (L + 1)) ^ 448 := by
        have := Nat.pow_lt_pow_left h1 (n := 448) (by norm_num)
        omega
    _ = 2 ^ (448 * L + 449) := by rw [← pow_mul, ← pow_succ']; congr 1; ring
    _ ≤ _ := by
      apply Nat.pow_le_pow_right two_pos
      rw [pow_add] at h2 ⊢
      omega

/-- The sign is the sign of the real number. -/
theorem CosSum.sign_eq (x : CosSum) : x.sign = SignType.sign x.toReal := by
  have hfrom : x.signFrom (Nat.log2 (Nat.log2 x.height) + 5) 0 = SignType.sign x.toReal := by
    obtain ⟨h1, h2⟩ := x.signFrom_sound (Nat.log2 (Nat.log2 x.height) + 5) 0
    by_cases h0 : x.toReal = 0
    · cases hs : x.signFrom (Nat.log2 (Nat.log2 x.height) + 5) 0 with
      | zero => simp [h0]
      | neg => exact absurd (h2 hs) (by simp [h0])
      | pos => exact absurd (h1 hs) (by simp [h0])
    · have hne := x.signFrom_ne_zero h0 _ 0 x.height_lt
      cases hs : x.signFrom (Nat.log2 (Nat.log2 x.height) + 5) 0 with
      | zero => exact absurd hs hne
      | neg => exact (sign_neg (h2 hs)).symm
      | pos => exact (sign_pos (h1 hs)).symm
  unfold sign
  split
  · rename_i h
    simp [toReal, h]
  · rename_i q h
    have hq : x.toReal = q := by simp [toReal, h]
    rw [hq]
    split
    · rename_i hp
      exact (sign_pos (by exact_mod_cast hp)).symm
    · split
      · rename_i hn
        exact (sign_neg (by exact_mod_cast hn)).symm
      · have : q = 0 := le_antisymm (not_lt.1 ‹_›) (not_lt.1 ‹_›)
        simp [this]
  · exact hfrom

end Sys2Proof
end

