-- ==== Sys2Proof/Laws/State.lean ====
section
/-! SUPPORT. One lemma for each field of the state under each named update, and the readings of a voice and
of a pending mask after an update. No later proof unfolds an update of the record. -/

namespace Sys2Proof.Machine

variable (s : State)

/-! ### `setVoice`: `V[v] <- x` -/

@[simp] theorem State.setVoice_voices (v : Fin 32) (x : Voice) :
    (s.setVoice v x).voices = s.voices.set v x := rfl
@[simp] theorem State.setVoice_waveState (v : Fin 32) (x : Voice) :
    (s.setVoice v x).waveState = s.waveState := rfl
@[simp] theorem State.setVoice_volState (v : Fin 32) (x : Voice) :
    (s.setVoice v x).volState = s.volState := rfl
@[simp] theorem State.setVoice_status (v : Fin 32) (x : Voice) :
    (s.setVoice v x).status = s.status := rfl
@[simp] theorem State.setVoice_selectedRegister (v : Fin 32) (x : Voice) :
    (s.setVoice v x).selectedRegister = s.selectedRegister := rfl
@[simp] theorem State.setVoice_registerData (v : Fin 32) (x : Voice) :
    (s.setVoice v x).registerData = s.registerData := rfl
@[simp] theorem State.setVoice_voiceIndex (v : Fin 32) (x : Voice) :
    (s.setVoice v x).voiceIndex = s.voiceIndex := rfl
@[simp] theorem State.setVoice_voiceSelected (v : Fin 32) (x : Voice) :
    (s.setVoice v x).voiceSelected = s.voiceSelected := rfl
@[simp] theorem State.setVoice_activeVoices (v : Fin 32) (x : Voice) :
    (s.setVoice v x).activeVoices = s.activeVoices := rfl
@[simp] theorem State.setVoice_activeVoiceMask (v : Fin 32) (x : Voice) :
    (s.setVoice v x).activeVoiceMask = s.activeVoiceMask := rfl
@[simp] theorem State.setVoice_irqStatus (v : Fin 32) (x : Voice) :
    (s.setVoice v x).irqStatus = s.irqStatus := rfl
@[simp] theorem State.setVoice_irqEnabled (v : Fin 32) (x : Voice) :
    (s.setVoice v x).irqEnabled = s.irqEnabled := rfl
@[simp] theorem State.setVoice_outputEnabled (v : Fin 32) (x : Voice) :
    (s.setVoice v x).outputEnabled = s.outputEnabled := rfl
@[simp] theorem State.setVoice_dmaCtrl (v : Fin 32) (x : Voice) :
    (s.setVoice v x).dmaCtrl = s.dmaCtrl := rfl
@[simp] theorem State.setVoice_dmaAddr (v : Fin 32) (x : Voice) :
    (s.setVoice v x).dmaAddr = s.dmaAddr := rfl
@[simp] theorem State.setVoice_dmaScheduled (v : Fin 32) (x : Voice) :
    (s.setVoice v x).dmaScheduled = s.dmaScheduled := rfl
@[simp] theorem State.setVoice_dramAddr (v : Fin 32) (x : Voice) :
    (s.setVoice v x).dramAddr = s.dramAddr := rfl
@[simp] theorem State.setVoice_mixCtrl (v : Fin 32) (x : Voice) :
    (s.setVoice v x).mixCtrl = s.mixCtrl := rfl
@[simp] theorem State.setVoice_shouldApply (v : Fin 32) (x : Voice) :
    (s.setVoice v x).shouldApply = s.shouldApply := rfl
@[simp] theorem State.setVoice_sampleCtrl (v : Fin 32) (x : Voice) :
    (s.setVoice v x).sampleCtrl = s.sampleCtrl := rfl
@[simp] theorem State.setVoice_timerCtrl (v : Fin 32) (x : Voice) :
    (s.setVoice v x).timerCtrl = s.timerCtrl := rfl
@[simp] theorem State.setVoice_timer1 (v : Fin 32) (x : Voice) :
    (s.setVoice v x).timer1 = s.timer1 := rfl
@[simp] theorem State.setVoice_timer2 (v : Fin 32) (x : Voice) :
    (s.setVoice v x).timer2 = s.timer2 := rfl
@[simp] theorem State.setVoice_adlibCommand (v : Fin 32) (x : Voice) :
    (s.setVoice v x).adlibCommand = s.adlibCommand := rfl
@[simp] theorem State.setVoice_dmaChannel (v : Fin 32) (x : Voice) :
    (s.setVoice v x).dmaChannel = s.dmaChannel := rfl
@[simp] theorem State.setVoice_irqNumber (v : Fin 32) (x : Voice) :
    (s.setVoice v x).irqNumber = s.irqNumber := rfl
@[simp] theorem State.setVoice_ram (v : Fin 32) (x : Voice) : (s.setVoice v x).ram = s.ram := rfl
@[simp] theorem State.setVoice_acc (v : Fin 32) (x : Voice) : (s.setVoice v x).acc = s.acc := rfl
@[simp] theorem State.setVoice_peakLeft (v : Fin 32) (x : Voice) :
    (s.setVoice v x).peakLeft = s.peakLeft := rfl
@[simp] theorem State.setVoice_peakRight (v : Fin 32) (x : Voice) :
    (s.setVoice v x).peakRight = s.peakRight := rfl
@[simp] theorem State.setVoice_params (v : Fin 32) (x : Voice) :
    (s.setVoice v x).params = s.params := rfl
@[simp] theorem State.setVoice_inbox (v : Fin 32) (x : Voice) : (s.setVoice v x).inbox = s.inbox := rfl
@[simp] theorem State.setVoice_reply (v : Fin 32) (x : Voice) : (s.setVoice v x).reply = s.reply := rfl
@[simp] theorem State.setVoice_out (v : Fin 32) (x : Voice) : (s.setVoice v x).out = s.out := rfl
@[simp] theorem State.setVoice_draws (v : Fin 32) (x : Voice) : (s.setVoice v x).draws = s.draws := rfl

/-! ### `setPending`: `P <- w`: but for the two masks -/

@[simp] theorem State.setPending_voices (axis : Axis) (w : Word) :
    (s.setPending axis w).voices = s.voices := by cases axis <;> rfl
@[simp] theorem State.setPending_status (axis : Axis) (w : Word) :
    (s.setPending axis w).status = s.status := by cases axis <;> rfl
@[simp] theorem State.setPending_selectedRegister (axis : Axis) (w : Word) :
    (s.setPending axis w).selectedRegister = s.selectedRegister := by cases axis <;> rfl
@[simp] theorem State.setPending_registerData (axis : Axis) (w : Word) :
    (s.setPending axis w).registerData = s.registerData := by cases axis <;> rfl
@[simp] theorem State.setPending_voiceIndex (axis : Axis) (w : Word) :
    (s.setPending axis w).voiceIndex = s.voiceIndex := by cases axis <;> rfl
@[simp] theorem State.setPending_voiceSelected (axis : Axis) (w : Word) :
    (s.setPending axis w).voiceSelected = s.voiceSelected := by cases axis <;> rfl
@[simp] theorem State.setPending_activeVoices (axis : Axis) (w : Word) :
    (s.setPending axis w).activeVoices = s.activeVoices := by cases axis <;> rfl
@[simp] theorem State.setPending_activeVoiceMask (axis : Axis) (w : Word) :
    (s.setPending axis w).activeVoiceMask = s.activeVoiceMask := by cases axis <;> rfl
@[simp] theorem State.setPending_irqStatus (axis : Axis) (w : Word) :
    (s.setPending axis w).irqStatus = s.irqStatus := by cases axis <;> rfl
@[simp] theorem State.setPending_irqEnabled (axis : Axis) (w : Word) :
    (s.setPending axis w).irqEnabled = s.irqEnabled := by cases axis <;> rfl
@[simp] theorem State.setPending_outputEnabled (axis : Axis) (w : Word) :
    (s.setPending axis w).outputEnabled = s.outputEnabled := by cases axis <;> rfl
@[simp] theorem State.setPending_dmaCtrl (axis : Axis) (w : Word) :
    (s.setPending axis w).dmaCtrl = s.dmaCtrl := by cases axis <;> rfl
@[simp] theorem State.setPending_dmaAddr (axis : Axis) (w : Word) :
    (s.setPending axis w).dmaAddr = s.dmaAddr := by cases axis <;> rfl
@[simp] theorem State.setPending_dmaScheduled (axis : Axis) (w : Word) :
    (s.setPending axis w).dmaScheduled = s.dmaScheduled := by cases axis <;> rfl
@[simp] theorem State.setPending_dramAddr (axis : Axis) (w : Word) :
    (s.setPending axis w).dramAddr = s.dramAddr := by cases axis <;> rfl
@[simp] theorem State.setPending_mixCtrl (axis : Axis) (w : Word) :
    (s.setPending axis w).mixCtrl = s.mixCtrl := by cases axis <;> rfl
@[simp] theorem State.setPending_shouldApply (axis : Axis) (w : Word) :
    (s.setPending axis w).shouldApply = s.shouldApply := by cases axis <;> rfl
@[simp] theorem State.setPending_sampleCtrl (axis : Axis) (w : Word) :
    (s.setPending axis w).sampleCtrl = s.sampleCtrl := by cases axis <;> rfl
@[simp] theorem State.setPending_timerCtrl (axis : Axis) (w : Word) :
    (s.setPending axis w).timerCtrl = s.timerCtrl := by cases axis <;> rfl
@[simp] theorem State.setPending_timer1 (axis : Axis) (w : Word) :
    (s.setPending axis w).timer1 = s.timer1 := by cases axis <;> rfl
@[simp] theorem State.setPending_timer2 (axis : Axis) (w : Word) :
    (s.setPending axis w).timer2 = s.timer2 := by cases axis <;> rfl
@[simp] theorem State.setPending_adlibCommand (axis : Axis) (w : Word) :
    (s.setPending axis w).adlibCommand = s.adlibCommand := by cases axis <;> rfl
@[simp] theorem State.setPending_dmaChannel (axis : Axis) (w : Word) :
    (s.setPending axis w).dmaChannel = s.dmaChannel := by cases axis <;> rfl
@[simp] theorem State.setPending_irqNumber (axis : Axis) (w : Word) :
    (s.setPending axis w).irqNumber = s.irqNumber := by cases axis <;> rfl
@[simp] theorem State.setPending_ram (axis : Axis) (w : Word) :
    (s.setPending axis w).ram = s.ram := by cases axis <;> rfl
@[simp] theorem State.setPending_acc (axis : Axis) (w : Word) :
    (s.setPending axis w).acc = s.acc := by cases axis <;> rfl
@[simp] theorem State.setPending_peakLeft (axis : Axis) (w : Word) :
    (s.setPending axis w).peakLeft = s.peakLeft := by cases axis <;> rfl
@[simp] theorem State.setPending_peakRight (axis : Axis) (w : Word) :
    (s.setPending axis w).peakRight = s.peakRight := by cases axis <;> rfl
@[simp] theorem State.setPending_params (axis : Axis) (w : Word) :
    (s.setPending axis w).params = s.params := by cases axis <;> rfl
@[simp] theorem State.setPending_inbox (axis : Axis) (w : Word) :
    (s.setPending axis w).inbox = s.inbox := by cases axis <;> rfl
@[simp] theorem State.setPending_reply (axis : Axis) (w : Word) :
    (s.setPending axis w).reply = s.reply := by cases axis <;> rfl
@[simp] theorem State.setPending_out (axis : Axis) (w : Word) :
    (s.setPending axis w).out = s.out := by cases axis <;> rfl
@[simp] theorem State.setPending_draws (axis : Axis) (w : Word) :
    (s.setPending axis w).draws = s.draws := by cases axis <;> rfl

/-! ### `answerByte`: the reply of a byte -/

@[simp] theorem State.answerByte_voices (b : Byte) : (s.answerByte b).voices = s.voices := rfl
@[simp] theorem State.answerByte_waveState (b : Byte) : (s.answerByte b).waveState = s.waveState := rfl
@[simp] theorem State.answerByte_volState (b : Byte) : (s.answerByte b).volState = s.volState := rfl
@[simp] theorem State.answerByte_status (b : Byte) : (s.answerByte b).status = s.status := rfl
@[simp] theorem State.answerByte_selectedRegister (b : Byte) :
    (s.answerByte b).selectedRegister = s.selectedRegister := rfl
@[simp] theorem State.answerByte_registerData (b : Byte) :
    (s.answerByte b).registerData = s.registerData := rfl
@[simp] theorem State.answerByte_voiceIndex (b : Byte) :
    (s.answerByte b).voiceIndex = s.voiceIndex := rfl
@[simp] theorem State.answerByte_voiceSelected (b : Byte) :
    (s.answerByte b).voiceSelected = s.voiceSelected := rfl
@[simp] theorem State.answerByte_activeVoices (b : Byte) :
    (s.answerByte b).activeVoices = s.activeVoices := rfl
@[simp] theorem State.answerByte_activeVoiceMask (b : Byte) :
    (s.answerByte b).activeVoiceMask = s.activeVoiceMask := rfl
@[simp] theorem State.answerByte_irqStatus (b : Byte) : (s.answerByte b).irqStatus = s.irqStatus := rfl
@[simp] theorem State.answerByte_irqEnabled (b : Byte) :
    (s.answerByte b).irqEnabled = s.irqEnabled := rfl
@[simp] theorem State.answerByte_outputEnabled (b : Byte) :
    (s.answerByte b).outputEnabled = s.outputEnabled := rfl
@[simp] theorem State.answerByte_dmaCtrl (b : Byte) : (s.answerByte b).dmaCtrl = s.dmaCtrl := rfl
@[simp] theorem State.answerByte_dmaAddr (b : Byte) : (s.answerByte b).dmaAddr = s.dmaAddr := rfl
@[simp] theorem State.answerByte_dmaScheduled (b : Byte) :
    (s.answerByte b).dmaScheduled = s.dmaScheduled := rfl
@[simp] theorem State.answerByte_dramAddr (b : Byte) : (s.answerByte b).dramAddr = s.dramAddr := rfl
@[simp] theorem State.answerByte_mixCtrl (b : Byte) : (s.answerByte b).mixCtrl = s.mixCtrl := rfl
@[simp] theorem State.answerByte_shouldApply (b : Byte) :
    (s.answerByte b).shouldApply = s.shouldApply := rfl
@[simp] theorem State.answerByte_sampleCtrl (b : Byte) :
    (s.answerByte b).sampleCtrl = s.sampleCtrl := rfl
@[simp] theorem State.answerByte_timerCtrl (b : Byte) : (s.answerByte b).timerCtrl = s.timerCtrl := rfl
@[simp] theorem State.answerByte_timer1 (b : Byte) : (s.answerByte b).timer1 = s.timer1 := rfl
@[simp] theorem State.answerByte_timer2 (b : Byte) : (s.answerByte b).timer2 = s.timer2 := rfl
@[simp] theorem State.answerByte_adlibCommand (b : Byte) :
    (s.answerByte b).adlibCommand = s.adlibCommand := rfl
@[simp] theorem State.answerByte_dmaChannel (b : Byte) :
    (s.answerByte b).dmaChannel = s.dmaChannel := rfl
@[simp] theorem State.answerByte_irqNumber (b : Byte) : (s.answerByte b).irqNumber = s.irqNumber := rfl
@[simp] theorem State.answerByte_ram (b : Byte) : (s.answerByte b).ram = s.ram := rfl
@[simp] theorem State.answerByte_acc (b : Byte) : (s.answerByte b).acc = s.acc := rfl
@[simp] theorem State.answerByte_peakLeft (b : Byte) : (s.answerByte b).peakLeft = s.peakLeft := rfl
@[simp] theorem State.answerByte_peakRight (b : Byte) : (s.answerByte b).peakRight = s.peakRight := rfl
@[simp] theorem State.answerByte_params (b : Byte) : (s.answerByte b).params = s.params := rfl
@[simp] theorem State.answerByte_inbox (b : Byte) : (s.answerByte b).inbox = s.inbox := rfl
@[simp] theorem State.answerByte_reply (b : Byte) : (s.answerByte b).reply = .byte b := rfl
@[simp] theorem State.answerByte_out (b : Byte) : (s.answerByte b).out = s.out := rfl
@[simp] theorem State.answerByte_draws (b : Byte) : (s.answerByte b).draws = s.draws := rfl

/-! ### `answerHalf`: the reply of 16 bits -/

@[simp] theorem State.answerHalf_voices (h : Half) : (s.answerHalf h).voices = s.voices := rfl
@[simp] theorem State.answerHalf_waveState (h : Half) : (s.answerHalf h).waveState = s.waveState := rfl
@[simp] theorem State.answerHalf_volState (h : Half) : (s.answerHalf h).volState = s.volState := rfl
@[simp] theorem State.answerHalf_status (h : Half) : (s.answerHalf h).status = s.status := rfl
@[simp] theorem State.answerHalf_selectedRegister (h : Half) :
    (s.answerHalf h).selectedRegister = s.selectedRegister := rfl
@[simp] theorem State.answerHalf_registerData (h : Half) :
    (s.answerHalf h).registerData = s.registerData := rfl
@[simp] theorem State.answerHalf_voiceIndex (h : Half) :
    (s.answerHalf h).voiceIndex = s.voiceIndex := rfl
@[simp] theorem State.answerHalf_voiceSelected (h : Half) :
    (s.answerHalf h).voiceSelected = s.voiceSelected := rfl
@[simp] theorem State.answerHalf_activeVoices (h : Half) :
    (s.answerHalf h).activeVoices = s.activeVoices := rfl
@[simp] theorem State.answerHalf_activeVoiceMask (h : Half) :
    (s.answerHalf h).activeVoiceMask = s.activeVoiceMask := rfl
@[simp] theorem State.answerHalf_irqStatus (h : Half) : (s.answerHalf h).irqStatus = s.irqStatus := rfl
@[simp] theorem State.answerHalf_irqEnabled (h : Half) :
    (s.answerHalf h).irqEnabled = s.irqEnabled := rfl
@[simp] theorem State.answerHalf_outputEnabled (h : Half) :
    (s.answerHalf h).outputEnabled = s.outputEnabled := rfl
@[simp] theorem State.answerHalf_dmaCtrl (h : Half) : (s.answerHalf h).dmaCtrl = s.dmaCtrl := rfl
@[simp] theorem State.answerHalf_dmaAddr (h : Half) : (s.answerHalf h).dmaAddr = s.dmaAddr := rfl
@[simp] theorem State.answerHalf_dmaScheduled (h : Half) :
    (s.answerHalf h).dmaScheduled = s.dmaScheduled := rfl
@[simp] theorem State.answerHalf_dramAddr (h : Half) : (s.answerHalf h).dramAddr = s.dramAddr := rfl
@[simp] theorem State.answerHalf_mixCtrl (h : Half) : (s.answerHalf h).mixCtrl = s.mixCtrl := rfl
@[simp] theorem State.answerHalf_shouldApply (h : Half) :
    (s.answerHalf h).shouldApply = s.shouldApply := rfl
@[simp] theorem State.answerHalf_sampleCtrl (h : Half) :
    (s.answerHalf h).sampleCtrl = s.sampleCtrl := rfl
@[simp] theorem State.answerHalf_timerCtrl (h : Half) : (s.answerHalf h).timerCtrl = s.timerCtrl := rfl
@[simp] theorem State.answerHalf_timer1 (h : Half) : (s.answerHalf h).timer1 = s.timer1 := rfl
@[simp] theorem State.answerHalf_timer2 (h : Half) : (s.answerHalf h).timer2 = s.timer2 := rfl
@[simp] theorem State.answerHalf_adlibCommand (h : Half) :
    (s.answerHalf h).adlibCommand = s.adlibCommand := rfl
@[simp] theorem State.answerHalf_dmaChannel (h : Half) :
    (s.answerHalf h).dmaChannel = s.dmaChannel := rfl
@[simp] theorem State.answerHalf_irqNumber (h : Half) : (s.answerHalf h).irqNumber = s.irqNumber := rfl
@[simp] theorem State.answerHalf_ram (h : Half) : (s.answerHalf h).ram = s.ram := rfl
@[simp] theorem State.answerHalf_acc (h : Half) : (s.answerHalf h).acc = s.acc := rfl
@[simp] theorem State.answerHalf_peakLeft (h : Half) : (s.answerHalf h).peakLeft = s.peakLeft := rfl
@[simp] theorem State.answerHalf_peakRight (h : Half) : (s.answerHalf h).peakRight = s.peakRight := rfl
@[simp] theorem State.answerHalf_params (h : Half) : (s.answerHalf h).params = s.params := rfl
@[simp] theorem State.answerHalf_inbox (h : Half) : (s.answerHalf h).inbox = s.inbox := rfl
@[simp] theorem State.answerHalf_reply (h : Half) : (s.answerHalf h).reply = .half h := rfl
@[simp] theorem State.answerHalf_out (h : Half) : (s.answerHalf h).out = s.out := rfl
@[simp] theorem State.answerHalf_draws (h : Half) : (s.answerHalf h).draws = s.draws := rfl

/-! ### `emit`: an output event -/

@[simp] theorem State.emit_voices (e : OutEvent) : (s.emit e).voices = s.voices := rfl
@[simp] theorem State.emit_waveState (e : OutEvent) : (s.emit e).waveState = s.waveState := rfl
@[simp] theorem State.emit_volState (e : OutEvent) : (s.emit e).volState = s.volState := rfl
@[simp] theorem State.emit_status (e : OutEvent) : (s.emit e).status = s.status := rfl
@[simp] theorem State.emit_selectedRegister (e : OutEvent) :
    (s.emit e).selectedRegister = s.selectedRegister := rfl
@[simp] theorem State.emit_registerData (e : OutEvent) : (s.emit e).registerData = s.registerData := rfl
@[simp] theorem State.emit_voiceIndex (e : OutEvent) : (s.emit e).voiceIndex = s.voiceIndex := rfl
@[simp] theorem State.emit_voiceSelected (e : OutEvent) :
    (s.emit e).voiceSelected = s.voiceSelected := rfl
@[simp] theorem State.emit_activeVoices (e : OutEvent) : (s.emit e).activeVoices = s.activeVoices := rfl
@[simp] theorem State.emit_activeVoiceMask (e : OutEvent) :
    (s.emit e).activeVoiceMask = s.activeVoiceMask := rfl
@[simp] theorem State.emit_irqStatus (e : OutEvent) : (s.emit e).irqStatus = s.irqStatus := rfl
@[simp] theorem State.emit_irqEnabled (e : OutEvent) : (s.emit e).irqEnabled = s.irqEnabled := rfl
@[simp] theorem State.emit_outputEnabled (e : OutEvent) :
    (s.emit e).outputEnabled = s.outputEnabled := rfl
@[simp] theorem State.emit_dmaCtrl (e : OutEvent) : (s.emit e).dmaCtrl = s.dmaCtrl := rfl
@[simp] theorem State.emit_dmaAddr (e : OutEvent) : (s.emit e).dmaAddr = s.dmaAddr := rfl
@[simp] theorem State.emit_dmaScheduled (e : OutEvent) : (s.emit e).dmaScheduled = s.dmaScheduled := rfl
@[simp] theorem State.emit_dramAddr (e : OutEvent) : (s.emit e).dramAddr = s.dramAddr := rfl
@[simp] theorem State.emit_mixCtrl (e : OutEvent) : (s.emit e).mixCtrl = s.mixCtrl := rfl
@[simp] theorem State.emit_shouldApply (e : OutEvent) : (s.emit e).shouldApply = s.shouldApply := rfl
@[simp] theorem State.emit_sampleCtrl (e : OutEvent) : (s.emit e).sampleCtrl = s.sampleCtrl := rfl
@[simp] theorem State.emit_timerCtrl (e : OutEvent) : (s.emit e).timerCtrl = s.timerCtrl := rfl
@[simp] theorem State.emit_timer1 (e : OutEvent) : (s.emit e).timer1 = s.timer1 := rfl
@[simp] theorem State.emit_timer2 (e : OutEvent) : (s.emit e).timer2 = s.timer2 := rfl
@[simp] theorem State.emit_adlibCommand (e : OutEvent) : (s.emit e).adlibCommand = s.adlibCommand := rfl
@[simp] theorem State.emit_dmaChannel (e : OutEvent) : (s.emit e).dmaChannel = s.dmaChannel := rfl
@[simp] theorem State.emit_irqNumber (e : OutEvent) : (s.emit e).irqNumber = s.irqNumber := rfl
@[simp] theorem State.emit_ram (e : OutEvent) : (s.emit e).ram = s.ram := rfl
@[simp] theorem State.emit_acc (e : OutEvent) : (s.emit e).acc = s.acc := rfl
@[simp] theorem State.emit_peakLeft (e : OutEvent) : (s.emit e).peakLeft = s.peakLeft := rfl
@[simp] theorem State.emit_peakRight (e : OutEvent) : (s.emit e).peakRight = s.peakRight := rfl
@[simp] theorem State.emit_params (e : OutEvent) : (s.emit e).params = s.params := rfl
@[simp] theorem State.emit_inbox (e : OutEvent) : (s.emit e).inbox = s.inbox := rfl
@[simp] theorem State.emit_reply (e : OutEvent) : (s.emit e).reply = s.reply := rfl
@[simp] theorem State.emit_out (e : OutEvent) : (s.emit e).out = s.out ++ [e] := rfl
@[simp] theorem State.emit_draws (e : OutEvent) : (s.emit e).draws = s.draws := rfl

/-! ### `drawn`: a draw -/

@[simp] theorem State.drawn_voices : (s.drawn).voices = s.voices := rfl
@[simp] theorem State.drawn_waveState : (s.drawn).waveState = s.waveState := rfl
@[simp] theorem State.drawn_volState : (s.drawn).volState = s.volState := rfl
@[simp] theorem State.drawn_status : (s.drawn).status = s.status := rfl
@[simp] theorem State.drawn_selectedRegister : (s.drawn).selectedRegister = s.selectedRegister := rfl
@[simp] theorem State.drawn_registerData : (s.drawn).registerData = s.registerData := rfl
@[simp] theorem State.drawn_voiceIndex : (s.drawn).voiceIndex = s.voiceIndex := rfl
@[simp] theorem State.drawn_voiceSelected : (s.drawn).voiceSelected = s.voiceSelected := rfl
@[simp] theorem State.drawn_activeVoices : (s.drawn).activeVoices = s.activeVoices := rfl
@[simp] theorem State.drawn_activeVoiceMask : (s.drawn).activeVoiceMask = s.activeVoiceMask := rfl
@[simp] theorem State.drawn_irqStatus : (s.drawn).irqStatus = s.irqStatus := rfl
@[simp] theorem State.drawn_irqEnabled : (s.drawn).irqEnabled = s.irqEnabled := rfl
@[simp] theorem State.drawn_outputEnabled : (s.drawn).outputEnabled = s.outputEnabled := rfl
@[simp] theorem State.drawn_dmaCtrl : (s.drawn).dmaCtrl = s.dmaCtrl := rfl
@[simp] theorem State.drawn_dmaAddr : (s.drawn).dmaAddr = s.dmaAddr := rfl
@[simp] theorem State.drawn_dmaScheduled : (s.drawn).dmaScheduled = s.dmaScheduled := rfl
@[simp] theorem State.drawn_dramAddr : (s.drawn).dramAddr = s.dramAddr := rfl
@[simp] theorem State.drawn_mixCtrl : (s.drawn).mixCtrl = s.mixCtrl := rfl
@[simp] theorem State.drawn_shouldApply : (s.drawn).shouldApply = s.shouldApply := rfl
@[simp] theorem State.drawn_sampleCtrl : (s.drawn).sampleCtrl = s.sampleCtrl := rfl
@[simp] theorem State.drawn_timerCtrl : (s.drawn).timerCtrl = s.timerCtrl := rfl
@[simp] theorem State.drawn_timer1 : (s.drawn).timer1 = s.timer1 := rfl
@[simp] theorem State.drawn_timer2 : (s.drawn).timer2 = s.timer2 := rfl
@[simp] theorem State.drawn_adlibCommand : (s.drawn).adlibCommand = s.adlibCommand := rfl
@[simp] theorem State.drawn_dmaChannel : (s.drawn).dmaChannel = s.dmaChannel := rfl
@[simp] theorem State.drawn_irqNumber : (s.drawn).irqNumber = s.irqNumber := rfl
@[simp] theorem State.drawn_ram : (s.drawn).ram = s.ram := rfl
@[simp] theorem State.drawn_acc : (s.drawn).acc = s.acc := rfl
@[simp] theorem State.drawn_peakLeft : (s.drawn).peakLeft = s.peakLeft := rfl
@[simp] theorem State.drawn_peakRight : (s.drawn).peakRight = s.peakRight := rfl
@[simp] theorem State.drawn_params : (s.drawn).params = s.params := rfl
@[simp] theorem State.drawn_inbox : (s.drawn).inbox = s.inbox := rfl
@[simp] theorem State.drawn_reply : (s.drawn).reply = s.reply := rfl
@[simp] theorem State.drawn_out : (s.drawn).out = s.out := rfl
@[simp] theorem State.drawn_draws : (s.drawn).draws = s.draws + 1 := rfl

/-! ### `writeRam`: `RAM[a] <- b` -/

@[simp] theorem State.writeRam_voices (a : RamAddr) (b : Byte) :
    (s.writeRam a b).voices = s.voices := rfl
@[simp] theorem State.writeRam_waveState (a : RamAddr) (b : Byte) :
    (s.writeRam a b).waveState = s.waveState := rfl
@[simp] theorem State.writeRam_volState (a : RamAddr) (b : Byte) :
    (s.writeRam a b).volState = s.volState := rfl
@[simp] theorem State.writeRam_status (a : RamAddr) (b : Byte) :
    (s.writeRam a b).status = s.status := rfl
@[simp] theorem State.writeRam_selectedRegister (a : RamAddr) (b : Byte) :
    (s.writeRam a b).selectedRegister = s.selectedRegister := rfl
@[simp] theorem State.writeRam_registerData (a : RamAddr) (b : Byte) :
    (s.writeRam a b).registerData = s.registerData := rfl
@[simp] theorem State.writeRam_voiceIndex (a : RamAddr) (b : Byte) :
    (s.writeRam a b).voiceIndex = s.voiceIndex := rfl
@[simp] theorem State.writeRam_voiceSelected (a : RamAddr) (b : Byte) :
    (s.writeRam a b).voiceSelected = s.voiceSelected := rfl
@[simp] theorem State.writeRam_activeVoices (a : RamAddr) (b : Byte) :
    (s.writeRam a b).activeVoices = s.activeVoices := rfl
@[simp] theorem State.writeRam_activeVoiceMask (a : RamAddr) (b : Byte) :
    (s.writeRam a b).activeVoiceMask = s.activeVoiceMask := rfl
@[simp] theorem State.writeRam_irqStatus (a : RamAddr) (b : Byte) :
    (s.writeRam a b).irqStatus = s.irqStatus := rfl
@[simp] theorem State.writeRam_irqEnabled (a : RamAddr) (b : Byte) :
    (s.writeRam a b).irqEnabled = s.irqEnabled := rfl
@[simp] theorem State.writeRam_outputEnabled (a : RamAddr) (b : Byte) :
    (s.writeRam a b).outputEnabled = s.outputEnabled := rfl
@[simp] theorem State.writeRam_dmaCtrl (a : RamAddr) (b : Byte) :
    (s.writeRam a b).dmaCtrl = s.dmaCtrl := rfl
@[simp] theorem State.writeRam_dmaAddr (a : RamAddr) (b : Byte) :
    (s.writeRam a b).dmaAddr = s.dmaAddr := rfl
@[simp] theorem State.writeRam_dmaScheduled (a : RamAddr) (b : Byte) :
    (s.writeRam a b).dmaScheduled = s.dmaScheduled := rfl
@[simp] theorem State.writeRam_dramAddr (a : RamAddr) (b : Byte) :
    (s.writeRam a b).dramAddr = s.dramAddr := rfl
@[simp] theorem State.writeRam_mixCtrl (a : RamAddr) (b : Byte) :
    (s.writeRam a b).mixCtrl = s.mixCtrl := rfl
@[simp] theorem State.writeRam_shouldApply (a : RamAddr) (b : Byte) :
    (s.writeRam a b).shouldApply = s.shouldApply := rfl
@[simp] theorem State.writeRam_sampleCtrl (a : RamAddr) (b : Byte) :
    (s.writeRam a b).sampleCtrl = s.sampleCtrl := rfl
@[simp] theorem State.writeRam_timerCtrl (a : RamAddr) (b : Byte) :
    (s.writeRam a b).timerCtrl = s.timerCtrl := rfl
@[simp] theorem State.writeRam_timer1 (a : RamAddr) (b : Byte) :
    (s.writeRam a b).timer1 = s.timer1 := rfl
@[simp] theorem State.writeRam_timer2 (a : RamAddr) (b : Byte) :
    (s.writeRam a b).timer2 = s.timer2 := rfl
@[simp] theorem State.writeRam_adlibCommand (a : RamAddr) (b : Byte) :
    (s.writeRam a b).adlibCommand = s.adlibCommand := rfl
@[simp] theorem State.writeRam_dmaChannel (a : RamAddr) (b : Byte) :
    (s.writeRam a b).dmaChannel = s.dmaChannel := rfl
@[simp] theorem State.writeRam_irqNumber (a : RamAddr) (b : Byte) :
    (s.writeRam a b).irqNumber = s.irqNumber := rfl
@[simp] theorem State.writeRam_ram (a : RamAddr) (b : Byte) :
    (s.writeRam a b).ram = s.ram.store a.toNat b := rfl
@[simp] theorem State.writeRam_acc (a : RamAddr) (b : Byte) : (s.writeRam a b).acc = s.acc := rfl
@[simp] theorem State.writeRam_peakLeft (a : RamAddr) (b : Byte) :
    (s.writeRam a b).peakLeft = s.peakLeft := rfl
@[simp] theorem State.writeRam_peakRight (a : RamAddr) (b : Byte) :
    (s.writeRam a b).peakRight = s.peakRight := rfl
@[simp] theorem State.writeRam_params (a : RamAddr) (b : Byte) :
    (s.writeRam a b).params = s.params := rfl
@[simp] theorem State.writeRam_inbox (a : RamAddr) (b : Byte) : (s.writeRam a b).inbox = s.inbox := rfl
@[simp] theorem State.writeRam_reply (a : RamAddr) (b : Byte) : (s.writeRam a b).reply = s.reply := rfl
@[simp] theorem State.writeRam_out (a : RamAddr) (b : Byte) : (s.writeRam a b).out = s.out := rfl
@[simp] theorem State.writeRam_draws (a : RamAddr) (b : Byte) : (s.writeRam a b).draws = s.draws := rfl

/-! ### `advanceCursor`: `AdvanceCursor` -/

@[simp] theorem State.advanceCursor_voices (total : Word) :
    (s.advanceCursor total).voices = s.voices := rfl
@[simp] theorem State.advanceCursor_waveState (total : Word) :
    (s.advanceCursor total).waveState = s.waveState := rfl
@[simp] theorem State.advanceCursor_volState (total : Word) :
    (s.advanceCursor total).volState = s.volState := rfl
@[simp] theorem State.advanceCursor_status (total : Word) :
    (s.advanceCursor total).status = seekCursor total s.activeVoices 33 s.status := rfl
@[simp] theorem State.advanceCursor_selectedRegister (total : Word) :
    (s.advanceCursor total).selectedRegister = s.selectedRegister := rfl
@[simp] theorem State.advanceCursor_registerData (total : Word) :
    (s.advanceCursor total).registerData = s.registerData := rfl
@[simp] theorem State.advanceCursor_voiceIndex (total : Word) :
    (s.advanceCursor total).voiceIndex = s.voiceIndex := rfl
@[simp] theorem State.advanceCursor_voiceSelected (total : Word) :
    (s.advanceCursor total).voiceSelected = s.voiceSelected := rfl
@[simp] theorem State.advanceCursor_activeVoices (total : Word) :
    (s.advanceCursor total).activeVoices = s.activeVoices := rfl
@[simp] theorem State.advanceCursor_activeVoiceMask (total : Word) :
    (s.advanceCursor total).activeVoiceMask = s.activeVoiceMask := rfl
@[simp] theorem State.advanceCursor_irqStatus (total : Word) :
    (s.advanceCursor total).irqStatus = s.irqStatus := rfl
@[simp] theorem State.advanceCursor_irqEnabled (total : Word) :
    (s.advanceCursor total).irqEnabled = s.irqEnabled := rfl
@[simp] theorem State.advanceCursor_outputEnabled (total : Word) :
    (s.advanceCursor total).outputEnabled = s.outputEnabled := rfl
@[simp] theorem State.advanceCursor_dmaCtrl (total : Word) :
    (s.advanceCursor total).dmaCtrl = s.dmaCtrl := rfl
@[simp] theorem State.advanceCursor_dmaAddr (total : Word) :
    (s.advanceCursor total).dmaAddr = s.dmaAddr := rfl
@[simp] theorem State.advanceCursor_dmaScheduled (total : Word) :
    (s.advanceCursor total).dmaScheduled = s.dmaScheduled := rfl
@[simp] theorem State.advanceCursor_dramAddr (total : Word) :
    (s.advanceCursor total).dramAddr = s.dramAddr := rfl
@[simp] theorem State.advanceCursor_mixCtrl (total : Word) :
    (s.advanceCursor total).mixCtrl = s.mixCtrl := rfl
@[simp] theorem State.advanceCursor_shouldApply (total : Word) :
    (s.advanceCursor total).shouldApply = s.shouldApply := rfl
@[simp] theorem State.advanceCursor_sampleCtrl (total : Word) :
    (s.advanceCursor total).sampleCtrl = s.sampleCtrl := rfl
@[simp] theorem State.advanceCursor_timerCtrl (total : Word) :
    (s.advanceCursor total).timerCtrl = s.timerCtrl := rfl
@[simp] theorem State.advanceCursor_timer1 (total : Word) :
    (s.advanceCursor total).timer1 = s.timer1 := rfl
@[simp] theorem State.advanceCursor_timer2 (total : Word) :
    (s.advanceCursor total).timer2 = s.timer2 := rfl
@[simp] theorem State.advanceCursor_adlibCommand (total : Word) :
    (s.advanceCursor total).adlibCommand = s.adlibCommand := rfl
@[simp] theorem State.advanceCursor_dmaChannel (total : Word) :
    (s.advanceCursor total).dmaChannel = s.dmaChannel := rfl
@[simp] theorem State.advanceCursor_irqNumber (total : Word) :
    (s.advanceCursor total).irqNumber = s.irqNumber := rfl
@[simp] theorem State.advanceCursor_ram (total : Word) : (s.advanceCursor total).ram = s.ram := rfl
@[simp] theorem State.advanceCursor_acc (total : Word) : (s.advanceCursor total).acc = s.acc := rfl
@[simp] theorem State.advanceCursor_peakLeft (total : Word) :
    (s.advanceCursor total).peakLeft = s.peakLeft := rfl
@[simp] theorem State.advanceCursor_peakRight (total : Word) :
    (s.advanceCursor total).peakRight = s.peakRight := rfl
@[simp] theorem State.advanceCursor_params (total : Word) :
    (s.advanceCursor total).params = s.params := rfl
@[simp] theorem State.advanceCursor_inbox (total : Word) :
    (s.advanceCursor total).inbox = s.inbox := rfl
@[simp] theorem State.advanceCursor_reply (total : Word) :
    (s.advanceCursor total).reply = s.reply := rfl
@[simp] theorem State.advanceCursor_out (total : Word) : (s.advanceCursor total).out = s.out := rfl
@[simp] theorem State.advanceCursor_draws (total : Word) :
    (s.advanceCursor total).draws = s.draws := rfl

/-! ### `accumulate`: `ACC[f] <- ...` -/

@[simp] theorem State.accumulate_voices (f : Nat) (pos : Fin 16) (x : Exact) :
    (s.accumulate f pos x).voices = s.voices := rfl
@[simp] theorem State.accumulate_waveState (f : Nat) (pos : Fin 16) (x : Exact) :
    (s.accumulate f pos x).waveState = s.waveState := rfl
@[simp] theorem State.accumulate_volState (f : Nat) (pos : Fin 16) (x : Exact) :
    (s.accumulate f pos x).volState = s.volState := rfl
@[simp] theorem State.accumulate_status (f : Nat) (pos : Fin 16) (x : Exact) :
    (s.accumulate f pos x).status = s.status := rfl
@[simp] theorem State.accumulate_selectedRegister (f : Nat) (pos : Fin 16) (x : Exact) :
    (s.accumulate f pos x).selectedRegister = s.selectedRegister := rfl
@[simp] theorem State.accumulate_registerData (f : Nat) (pos : Fin 16) (x : Exact) :
    (s.accumulate f pos x).registerData = s.registerData := rfl
@[simp] theorem State.accumulate_voiceIndex (f : Nat) (pos : Fin 16) (x : Exact) :
    (s.accumulate f pos x).voiceIndex = s.voiceIndex := rfl
@[simp] theorem State.accumulate_voiceSelected (f : Nat) (pos : Fin 16) (x : Exact) :
    (s.accumulate f pos x).voiceSelected = s.voiceSelected := rfl
@[simp] theorem State.accumulate_activeVoices (f : Nat) (pos : Fin 16) (x : Exact) :
    (s.accumulate f pos x).activeVoices = s.activeVoices := rfl
@[simp] theorem State.accumulate_activeVoiceMask (f : Nat) (pos : Fin 16) (x : Exact) :
    (s.accumulate f pos x).activeVoiceMask = s.activeVoiceMask := rfl
@[simp] theorem State.accumulate_irqStatus (f : Nat) (pos : Fin 16) (x : Exact) :
    (s.accumulate f pos x).irqStatus = s.irqStatus := rfl
@[simp] theorem State.accumulate_irqEnabled (f : Nat) (pos : Fin 16) (x : Exact) :
    (s.accumulate f pos x).irqEnabled = s.irqEnabled := rfl
@[simp] theorem State.accumulate_outputEnabled (f : Nat) (pos : Fin 16) (x : Exact) :
    (s.accumulate f pos x).outputEnabled = s.outputEnabled := rfl
@[simp] theorem State.accumulate_dmaCtrl (f : Nat) (pos : Fin 16) (x : Exact) :
    (s.accumulate f pos x).dmaCtrl = s.dmaCtrl := rfl
@[simp] theorem State.accumulate_dmaAddr (f : Nat) (pos : Fin 16) (x : Exact) :
    (s.accumulate f pos x).dmaAddr = s.dmaAddr := rfl
@[simp] theorem State.accumulate_dmaScheduled (f : Nat) (pos : Fin 16) (x : Exact) :
    (s.accumulate f pos x).dmaScheduled = s.dmaScheduled := rfl
@[simp] theorem State.accumulate_dramAddr (f : Nat) (pos : Fin 16) (x : Exact) :
    (s.accumulate f pos x).dramAddr = s.dramAddr := rfl
@[simp] theorem State.accumulate_mixCtrl (f : Nat) (pos : Fin 16) (x : Exact) :
    (s.accumulate f pos x).mixCtrl = s.mixCtrl := rfl
@[simp] theorem State.accumulate_shouldApply (f : Nat) (pos : Fin 16) (x : Exact) :
    (s.accumulate f pos x).shouldApply = s.shouldApply := rfl
@[simp] theorem State.accumulate_sampleCtrl (f : Nat) (pos : Fin 16) (x : Exact) :
    (s.accumulate f pos x).sampleCtrl = s.sampleCtrl := rfl
@[simp] theorem State.accumulate_timerCtrl (f : Nat) (pos : Fin 16) (x : Exact) :
    (s.accumulate f pos x).timerCtrl = s.timerCtrl := rfl
@[simp] theorem State.accumulate_timer1 (f : Nat) (pos : Fin 16) (x : Exact) :
    (s.accumulate f pos x).timer1 = s.timer1 := rfl
@[simp] theorem State.accumulate_timer2 (f : Nat) (pos : Fin 16) (x : Exact) :
    (s.accumulate f pos x).timer2 = s.timer2 := rfl
@[simp] theorem State.accumulate_adlibCommand (f : Nat) (pos : Fin 16) (x : Exact) :
    (s.accumulate f pos x).adlibCommand = s.adlibCommand := rfl
@[simp] theorem State.accumulate_dmaChannel (f : Nat) (pos : Fin 16) (x : Exact) :
    (s.accumulate f pos x).dmaChannel = s.dmaChannel := rfl
@[simp] theorem State.accumulate_irqNumber (f : Nat) (pos : Fin 16) (x : Exact) :
    (s.accumulate f pos x).irqNumber = s.irqNumber := rfl
@[simp] theorem State.accumulate_ram (f : Nat) (pos : Fin 16) (x : Exact) :
    (s.accumulate f pos x).ram = s.ram := rfl
@[simp] theorem State.accumulate_acc (f : Nat) (pos : Fin 16) (x : Exact) :
    (s.accumulate f pos x).acc = s.acc.modify f fun a => a.add s.params pos x := rfl
@[simp] theorem State.accumulate_peakLeft (f : Nat) (pos : Fin 16) (x : Exact) :
    (s.accumulate f pos x).peakLeft = s.peakLeft := rfl
@[simp] theorem State.accumulate_peakRight (f : Nat) (pos : Fin 16) (x : Exact) :
    (s.accumulate f pos x).peakRight = s.peakRight := rfl
@[simp] theorem State.accumulate_params (f : Nat) (pos : Fin 16) (x : Exact) :
    (s.accumulate f pos x).params = s.params := rfl
@[simp] theorem State.accumulate_inbox (f : Nat) (pos : Fin 16) (x : Exact) :
    (s.accumulate f pos x).inbox = s.inbox := rfl
@[simp] theorem State.accumulate_reply (f : Nat) (pos : Fin 16) (x : Exact) :
    (s.accumulate f pos x).reply = s.reply := rfl
@[simp] theorem State.accumulate_out (f : Nat) (pos : Fin 16) (x : Exact) :
    (s.accumulate f pos x).out = s.out := rfl
@[simp] theorem State.accumulate_draws (f : Nat) (pos : Fin 16) (x : Exact) :
    (s.accumulate f pos x).draws = s.draws := rfl

/-! ### Voices and pending masks -/

@[simp] theorem State.setPending_wave_waveState (w : Word) : (s.setPending .wave w).waveState = w := rfl
@[simp] theorem State.setPending_wave_volState (w : Word) :
    (s.setPending .wave w).volState = s.volState := rfl
@[simp] theorem State.setPending_vol_volState (w : Word) : (s.setPending .vol w).volState = w := rfl
@[simp] theorem State.setPending_vol_waveState (w : Word) :
    (s.setPending .vol w).waveState = s.waveState := rfl
@[simp] theorem State.pending_setPending (axis : Axis) (w : Word) :
    (s.setPending axis w).pending axis = w := by cases axis <;> rfl
@[simp] theorem State.setPending_pending (axis : Axis) : s.setPending axis (s.pending axis) = s := by
  cases axis <;> rfl
@[simp] theorem State.setVoice_pending (v : Fin 32) (x : Voice) (axis : Axis) :
    (s.setVoice v x).pending axis = s.pending axis := by cases axis <;> rfl
@[simp] theorem State.setPending_voice (axis : Axis) (w : Word) (v : Fin 32) :
    (s.setPending axis w).voice v = s.voice v := by cases axis <;> rfl

@[simp] theorem State.setPending_setVoice_pending (v : Fin 32) (x : Voice) (axis : Axis) :
    (s.setVoice v x).setPending axis (s.pending axis) = s.setVoice v x := by cases axis <;> rfl

/-- A voice reads back as it was set. -/
@[simp] theorem State.voice_setVoice (v : Fin 32) (x : Voice) : (s.setVoice v x).voice v = x := by
  simp [State.voice]

/-- Setting a voice leaves every other voice. -/
theorem State.voice_setVoice_ne (v u : Fin 32) (x : Voice) (h : u ≠ v) :
    (s.setVoice v x).voice u = s.voice u := by
  have : v.val ≠ u.val := fun e => h (Fin.ext e.symm)
  simp [State.voice, Vector.getElem_set_ne, this]

/-- Setting a voice to what it holds changes nothing. -/
@[simp] theorem State.setVoice_voice (v : Fin 32) : s.setVoice v (s.voice v) = s := by
  simp [State.setVoice, State.voice]

@[simp] theorem Voice.track_setTrack (x : Voice) (axis : Axis) (t : Track) :
    (x.setTrack axis t).track axis = t := by cases axis <;> rfl
@[simp] theorem Voice.setTrack_track (x : Voice) (axis : Axis) : x.setTrack axis (x.track axis) = x := by
  cases axis <;> rfl
@[simp] theorem Voice.setTrack_panPosition (x : Voice) (axis : Axis) (t : Track) :
    (x.setTrack axis t).panPosition = x.panPosition := by cases axis <;> rfl
@[simp] theorem Voice.setTrack_wave (x : Voice) (t : Track) : x.setTrack .wave t = { x with wave := t } := rfl
@[simp] theorem Voice.setTrack_vol (x : Voice) (t : Track) : x.setTrack .vol t = { x with vol := t } := rfl
@[simp] theorem Voice.track_wave (x : Voice) : x.track .wave = x.wave := rfl
@[simp] theorem Voice.track_vol (x : Voice) : x.track .vol = x.vol := rfl

/-! ### Frames of replies, events and draws: what they do not show -/

@[simp] theorem State.answerByte_voice (b : Byte) (v : Fin 32) : (s.answerByte b).voice v = s.voice v := rfl
@[simp] theorem State.answerHalf_voice (h : Half) (v : Fin 32) : (s.answerHalf h).voice v = s.voice v := rfl
@[simp] theorem State.emit_voice (e : OutEvent) (v : Fin 32) : (s.emit e).voice v = s.voice v := rfl
@[simp] theorem State.drawn_voice (v : Fin 32) : s.drawn.voice v = s.voice v := rfl
@[simp] theorem State.writeRam_voice (a : RamAddr) (b : Byte) (v : Fin 32) :
    (s.writeRam a b).voice v = s.voice v := rfl
@[simp] theorem State.accumulate_voice (f : Nat) (pos : Fin 16) (x : Exact) (v : Fin 32) :
    (s.accumulate f pos x).voice v = s.voice v := rfl
@[simp] theorem State.emit_ramByte (e : OutEvent) (a : RamAddr) : (s.emit e).ramByte a = s.ramByte a := rfl

end Sys2Proof.Machine
end

