-- ==== Sys2Proof/Laws/Words.lean ====
section
/-! SUPPORT. The words: `s32` fields and their values, bytes and halfwords, the voice bits of a mask. -/

namespace Sys2Proof

/-! ### `s32` -/

@[simp] theorem S32.ofWord_word (f : S32) : S32.ofWord f.word = f := by
  cases f
  simp only [S32.ofWord, S32.word, S32.mk.injEq]
  constructor <;> apply BitVec.eq_of_getLsbD_eq <;> intro i hi <;>
    simp only [BitVec.getLsbD_extractLsb', BitVec.getLsbD_append] <;> simp [hi]

@[simp] theorem S32.word_ofWord (w : Word) : (S32.ofWord w).word = w := by
  apply BitVec.eq_of_getLsbD_eq
  intro i hi
  simp only [S32.ofWord, S32.word, BitVec.getLsbD_append, BitVec.getLsbD_extractLsb']
  by_cases h : i < 16
  · simp [h]
  · have h1 : i - 16 < 16 := by omega
    have h2 : 16 + (i - 16) = i := by omega
    simp [h, h1, h2]

/-- An `s32` is its pattern. -/
theorem S32.word_injective {f g : S32} (h : f.word = g.word) : f = g := by
  rw [← S32.ofWord_word f, h, S32.ofWord_word]

/-- An `s32` is its value. -/
theorem S32.toInt_injective {f g : S32} (h : f.toInt = g.toInt) : f = g :=
  S32.word_injective (BitVec.eq_of_toInt_eq h)

@[simp] theorem S32.ofInt_toInt (f : S32) : S32.ofInt f.toInt = f := by
  simp [S32.ofInt, S32.toInt]

/-- The value of an `s32` of an integer in range is that integer. -/
theorem S32.toInt_ofInt {x : Int} (h1 : -2147483648 ≤ x) (h2 : x ≤ 2147483647) :
    (S32.ofInt x).toInt = x := by
  simp only [S32.ofInt, S32.toInt, S32.word_ofWord, BitVec.toInt_ofInt]
  rw [Int.bmod_eq_of_le] <;> omega

theorem S32.le_toInt (f : S32) : -2147483648 ≤ f.toInt := by
  have := BitVec.le_toInt f.word
  simpa [S32.toInt] using this

theorem S32.toInt_le (f : S32) : f.toInt ≤ 2147483647 := by
  have := BitVec.toInt_lt (x := f.word)
  simp only [S32.toInt]
  omega

@[simp] theorem S32.toInt_zero : (⟨0, 0⟩ : S32).toInt = 0 := by decide

/-! ### Bytes and halfwords -/

@[simp] theorem lowByte_joinBytes (hi lo : Byte) : lowByte (joinBytes hi lo) = lo := by
  apply BitVec.eq_of_getLsbD_eq
  intro i h
  simp only [lowByte, joinBytes, BitVec.getLsbD_extractLsb', BitVec.getLsbD_append]
  simp [h]

@[simp] theorem highByte_joinBytes (hi lo : Byte) : highByte (joinBytes hi lo) = hi := by
  apply BitVec.eq_of_getLsbD_eq
  intro i h
  simp only [highByte, joinBytes, BitVec.getLsbD_extractLsb', BitVec.getLsbD_append]
  simp [h]

@[simp] theorem joinBytes_high_low (h : Half) : joinBytes (highByte h) (lowByte h) = h := by
  apply BitVec.eq_of_getLsbD_eq
  intro i hi
  simp only [highByte, lowByte, joinBytes, BitVec.getLsbD_extractLsb', BitVec.getLsbD_append]
  by_cases h : i < 8
  · simp [h]
  · have h1 : i - 8 < 8 := by omega
    have h2 : 8 + (i - 8) = i := by omega
    simp [h, h1, h2]

/-- A halfword that is a byte has no high byte. -/
theorem highByte_of_fitsByte {v : Half} (h : fitsByte v = true) : highByte v = 0 := by
  have hv : v.toNat < 256 := by simpa [fitsByte] using h
  apply BitVec.eq_of_toNat_eq
  simp [highByte, BitVec.extractLsb'_toNat, Nat.shiftRight_eq_div_pow]
  omega

theorem lowByte_eq_setWidth (h : Half) : lowByte h = h.setWidth 8 := by
  apply BitVec.eq_of_toNat_eq
  simp [lowByte, BitVec.extractLsb'_toNat]

theorem highByte_eq_setWidth (h : Half) : highByte h = (h >>> 8).setWidth 8 := by
  apply BitVec.eq_of_toNat_eq
  simp [highByte, BitVec.extractLsb'_toNat]

/-- A bit vector is named by its number. -/
theorem eq_ofNat_of_toNat {w n : Nat} {x : BitVec w} (h : x.toNat = n) : x = BitVec.ofNat w n := by
  subst h
  simp

@[simp] theorem lowByte_zero : lowByte 0 = 0 := rfl

namespace Machine

/-! ### Voice bits -/

@[simp] theorem getLsbD_voiceBit (v : Fin 32) (k : Nat) : (voiceBit v).getLsbD k = decide (k = v.val) := by
  have hv := v.isLt
  by_cases h : k = v.val
  · subst h; simp [voiceBit]
  · simp only [voiceBit, BitVec.getLsbD_shiftLeft, h, decide_false]
    by_cases h1 : k < v.val
    · simp [h1]
    · have : k - v.val ≠ 0 := by omega
      simp [this]

/-- The only bit of a voice that a mask can share with the voice's own is that one. -/
theorem and_voiceBit (w : Word) (v : Fin 32) :
    w &&& voiceBit v = if w.getLsbD v.val then voiceBit v else 0 := by
  apply BitVec.eq_of_getLsbD_eq
  intro k hk
  rw [BitVec.getLsbD_and, getLsbD_voiceBit]
  by_cases e : k = v.val
  · subst e
    cases h : w.getLsbD v.val <;> simp only [if_true, getLsbD_voiceBit] <;> simp
  · cases h : w.getLsbD v.val <;> simp only [if_true, getLsbD_voiceBit, e] <;> simp

theorem voiceBit_ne_zero (v : Fin 32) : voiceBit v ≠ 0 := by
  intro h
  have := congrArg (BitVec.getLsbD · v.val) h
  simp only [getLsbD_voiceBit] at this
  simp at this

/-- A mask has a voice's bit or it has not. -/
theorem and_voiceBit_eq_zero (w : Word) (v : Fin 32) : w &&& voiceBit v = 0 ↔ w.getLsbD v.val = false := by
  rw [and_voiceBit]
  cases w.getLsbD v.val
  · simp
  · simpa using voiceBit_ne_zero v

theorem and_voiceBit_bne_zero (w : Word) (v : Fin 32) : (w &&& voiceBit v != 0) = w.getLsbD v.val := by
  rw [and_voiceBit]
  cases w.getLsbD v.val
  · simp
  · simpa using voiceBit_ne_zero v

/-- The mask of `n` voices has the bits below `n`. -/
theorem getLsbD_maskOf {n k : Nat} (hn : n ≤ 32) : (maskOf n).getLsbD k = decide (k < n) := by
  simp only [maskOf, BitVec.getLsbD_ofNat, Nat.testBit_two_pow_sub_one]
  by_cases h : k < n
  · simp [h]; omega
  · simp [h]

/-- A mask that is not zero has a bit. -/
theorem exists_getLsbD {w : Word} (h : w ≠ 0) : ∃ k, k < 32 ∧ w.getLsbD k = true := by
  by_contra hc
  apply h
  apply BitVec.eq_of_getLsbD_eq
  intro k hk
  have : ¬ w.getLsbD k = true := fun e => hc ⟨k, hk, e⟩
  simpa using this

end Machine

end Sys2Proof
end

