-- ==== Sys2Proof/Laws/Irq.lean ====
section
/-! SUPPORT. What the interrupt procedures of `60_exceptions.md` can do: `CheckIrq` adds an event,
`CheckVoiceIrq` recomputes two bits of `irq_status` and moves the cursor to a pending voice. -/

namespace Sys2Proof.Machine

variable (s : State)

/-! ### `CheckIrq` -/

/-- The event of `CheckIrq`, if there is one (`60_exceptions.md` R360). -/
def State.irqEvents : List OutEvent :=
  if (s.irqStatus &&& irqGate s.irqEnabled != 0) && lineEnabled s.mixCtrl then [.irqAssert s.irqNumber]
  else []

/-- All that `CheckIrq` does: it adds its event. -/
theorem State.checkIrq_eq : s.checkIrq = { s with out := s.out ++ s.irqEvents } := by
  unfold State.checkIrq State.irqEvents
  split <;> simp [State.emit]

@[simp] theorem State.checkIrq_voices : s.checkIrq.voices = s.voices := by rw [State.checkIrq_eq]
@[simp] theorem State.checkIrq_waveState : s.checkIrq.waveState = s.waveState := by rw [State.checkIrq_eq]
@[simp] theorem State.checkIrq_volState : s.checkIrq.volState = s.volState := by rw [State.checkIrq_eq]
@[simp] theorem State.checkIrq_status : s.checkIrq.status = s.status := by rw [State.checkIrq_eq]
@[simp] theorem State.checkIrq_selectedRegister : s.checkIrq.selectedRegister = s.selectedRegister := by rw [State.checkIrq_eq]
@[simp] theorem State.checkIrq_registerData : s.checkIrq.registerData = s.registerData := by rw [State.checkIrq_eq]
@[simp] theorem State.checkIrq_voiceIndex : s.checkIrq.voiceIndex = s.voiceIndex := by rw [State.checkIrq_eq]
@[simp] theorem State.checkIrq_voiceSelected : s.checkIrq.voiceSelected = s.voiceSelected := by rw [State.checkIrq_eq]
@[simp] theorem State.checkIrq_activeVoices : s.checkIrq.activeVoices = s.activeVoices := by rw [State.checkIrq_eq]
@[simp] theorem State.checkIrq_activeVoiceMask : s.checkIrq.activeVoiceMask = s.activeVoiceMask := by rw [State.checkIrq_eq]
@[simp] theorem State.checkIrq_irqStatus : s.checkIrq.irqStatus = s.irqStatus := by rw [State.checkIrq_eq]
@[simp] theorem State.checkIrq_irqEnabled : s.checkIrq.irqEnabled = s.irqEnabled := by rw [State.checkIrq_eq]
@[simp] theorem State.checkIrq_outputEnabled : s.checkIrq.outputEnabled = s.outputEnabled := by rw [State.checkIrq_eq]
@[simp] theorem State.checkIrq_dmaCtrl : s.checkIrq.dmaCtrl = s.dmaCtrl := by rw [State.checkIrq_eq]
@[simp] theorem State.checkIrq_dmaAddr : s.checkIrq.dmaAddr = s.dmaAddr := by rw [State.checkIrq_eq]
@[simp] theorem State.checkIrq_dmaScheduled : s.checkIrq.dmaScheduled = s.dmaScheduled := by rw [State.checkIrq_eq]
@[simp] theorem State.checkIrq_dramAddr : s.checkIrq.dramAddr = s.dramAddr := by rw [State.checkIrq_eq]
@[simp] theorem State.checkIrq_mixCtrl : s.checkIrq.mixCtrl = s.mixCtrl := by rw [State.checkIrq_eq]
@[simp] theorem State.checkIrq_shouldApply : s.checkIrq.shouldApply = s.shouldApply := by rw [State.checkIrq_eq]
@[simp] theorem State.checkIrq_sampleCtrl : s.checkIrq.sampleCtrl = s.sampleCtrl := by rw [State.checkIrq_eq]
@[simp] theorem State.checkIrq_timerCtrl : s.checkIrq.timerCtrl = s.timerCtrl := by rw [State.checkIrq_eq]
@[simp] theorem State.checkIrq_timer1 : s.checkIrq.timer1 = s.timer1 := by rw [State.checkIrq_eq]
@[simp] theorem State.checkIrq_timer2 : s.checkIrq.timer2 = s.timer2 := by rw [State.checkIrq_eq]
@[simp] theorem State.checkIrq_adlibCommand : s.checkIrq.adlibCommand = s.adlibCommand := by rw [State.checkIrq_eq]
@[simp] theorem State.checkIrq_dmaChannel : s.checkIrq.dmaChannel = s.dmaChannel := by rw [State.checkIrq_eq]
@[simp] theorem State.checkIrq_irqNumber : s.checkIrq.irqNumber = s.irqNumber := by rw [State.checkIrq_eq]
@[simp] theorem State.checkIrq_ram : s.checkIrq.ram = s.ram := by rw [State.checkIrq_eq]
@[simp] theorem State.checkIrq_acc : s.checkIrq.acc = s.acc := by rw [State.checkIrq_eq]
@[simp] theorem State.checkIrq_peakLeft : s.checkIrq.peakLeft = s.peakLeft := by rw [State.checkIrq_eq]
@[simp] theorem State.checkIrq_peakRight : s.checkIrq.peakRight = s.peakRight := by rw [State.checkIrq_eq]
@[simp] theorem State.checkIrq_params : s.checkIrq.params = s.params := by rw [State.checkIrq_eq]
@[simp] theorem State.checkIrq_inbox : s.checkIrq.inbox = s.inbox := by rw [State.checkIrq_eq]
@[simp] theorem State.checkIrq_reply : s.checkIrq.reply = s.reply := by rw [State.checkIrq_eq]
@[simp] theorem State.checkIrq_out : s.checkIrq.out = s.out ++ s.irqEvents := by
  rw [State.checkIrq_eq]
@[simp] theorem State.checkIrq_draws : s.checkIrq.draws = s.draws := by rw [State.checkIrq_eq]
@[simp] theorem State.checkIrq_voice (v : Fin 32) : s.checkIrq.voice v = s.voice v := by
  simp [State.voice]

/-! ### The cursor -/

/-- The pending bits of the active voices under the words the aggregation forms. -/
theorem State.totalPending_eq :
    s.totalPending = (s.volState &&& s.activeVoiceMask) ||| (s.waveState &&& s.activeVoiceMask) := rfl

/-- A search from a pending voice stays there. -/
theorem seekCursor_of_pending {total : Word} {active n : Nat} {c : Fin 32}
    (h : total.getLsbD c.val = true) : seekCursor total active n c = c := by
  cases n with
  | zero => rfl
  | succ n =>
    have : ¬ total &&& voiceBit c = 0 := by rw [and_voiceBit_eq_zero]; simp [h]
    simp only [seekCursor]
    rw [if_neg this]

/-- A search from a voice that is not pending goes on with the next. -/
theorem seekCursor_of_not_pending {total : Word} {active n : Nat} {c : Fin 32}
    (h : total.getLsbD c.val = false) :
    seekCursor total active (n + 1) c = seekCursor total active n (nextCursor active c) := by
  simp only [seekCursor]
  rw [if_pos ((and_voiceBit_eq_zero _ _).mpr h)]

/-- A search that meets a pending voice in `k` moves, and none before, ends there. -/
theorem seekCursor_eq {total : Word} {active : Nat} : ∀ {k n : Nat} {c : Fin 32}, k ≤ n →
    (∀ j, j < k → total.getLsbD ((nextCursor active)^[j] c).val = false) →
    total.getLsbD ((nextCursor active)^[k] c).val = true →
      seekCursor total active n c = (nextCursor active)^[k] c
  | 0, _, _, _, _, h => seekCursor_of_pending h
  | k + 1, n + 1, c, hk, hj, h => by
    rw [seekCursor_of_not_pending (show total.getLsbD c.val = false from hj 0 (by omega)), Function.iterate_succ_apply]
    exact seekCursor_eq (by omega)
      (fun j hjk => by simpa using hj (j + 1) (by omega)) (by simpa using h)

/-- Counting up from a voice below the count. -/
theorem nextCursor_iterate {active : Nat} (ha : active ≤ 32) : ∀ {k : Nat} {c : Fin 32},
    c.val + k < active → ((nextCursor active)^[k] c).val = c.val + k
  | 0, _, _ => by simp
  | k + 1, c, h => by
    have h1 : nextCursor active c = ⟨c.val + 1, by omega⟩ := by
      have : c.val + 1 < active := by omega
      have h32 : c.val + 1 < 32 := by omega
      simp [nextCursor, this, h32]
    rw [Function.iterate_succ_apply, h1, nextCursor_iterate ha (by simp only; omega)]
    simp only
    omega

/-- From any cursor, every voice below the count is met within 33 moves. -/
theorem exists_nextCursor_eq {active : Nat} (ha : active ≤ 32) (c : Fin 32) {v : Nat} (hv : v < active) :
    ∃ k, k < 33 ∧ ((nextCursor active)^[k] c).val = v := by
  by_cases hc : c.val ≤ v
  · exact ⟨v - c.val, by omega, by rw [nextCursor_iterate ha (by omega)]; omega⟩
  · -- up to the wrap, then up from 0
    by_cases hca : c.val < active
    · have h0 : (nextCursor active)^[active - c.val] c = 0 := by
        have : active - c.val = (active - 1 - c.val) + 1 := by omega
        rw [this, Function.iterate_succ_apply']
        have hl := nextCursor_iterate (k := active - 1 - c.val) ha (c := c) (by omega)
        simp only [nextCursor, hl]
        split
        · rw [if_neg (by omega)]
        · rfl
      refine ⟨v + (active - c.val), by omega, ?_⟩
      rw [Function.iterate_add_apply, h0, nextCursor_iterate ha (by simpa using hv)]
      simp
    · have h0 : nextCursor active c = 0 := by
        simp only [nextCursor]
        split
        · rw [if_neg (by omega)]
        · rfl
      refine ⟨v + 1, by omega, ?_⟩
      rw [Function.iterate_succ_apply, h0, nextCursor_iterate ha (by simpa using hv)]
      simp

/-- `AdvanceCursor` finds a pending voice, if one is below the count: the first it meets. -/
theorem seekCursor_spec {total : Word} {active : Nat} (ha : active ≤ 32) (c : Fin 32) {v : Nat}
    (hv : v < active) (ht : total.getLsbD v = true) :
    ∃ k, seekCursor total active 33 c = (nextCursor active)^[k] c ∧
      total.getLsbD ((nextCursor active)^[k] c).val = true ∧
      ∀ j, j < k → total.getLsbD ((nextCursor active)^[j] c).val = false := by
  obtain ⟨k, hk, hkv⟩ := exists_nextCursor_eq ha c hv
  have hex : ∃ k, total.getLsbD ((nextCursor active)^[k] c).val = true := ⟨k, by rw [hkv, ht]⟩
  classical
  have hle : Nat.find hex ≤ k := Nat.find_min' hex (by rw [hkv, ht])
  have hmin : ∀ j, j < Nat.find hex → total.getLsbD ((nextCursor active)^[j] c).val = false := by
    intro j hj
    have := Nat.find_min hex hj
    simpa only [Bool.not_eq_true] using this
  exact ⟨Nat.find hex, seekCursor_eq (by omega) hmin (Nat.find_spec hex), Nat.find_spec hex, hmin⟩

/-! ### `CheckVoiceIrq` -/

/-- `irq_status` after the aggregation. -/
def State.aggregatedStatus : Byte :=
  aggregated s.irqStatus (s.volState &&& s.activeVoiceMask) (s.waveState &&& s.activeVoiceMask)

/-- The cursor after the aggregation. -/
def State.aggregatedCursor : Fin 32 :=
  if s.totalPending = 0 then s.status else seekCursor s.totalPending s.activeVoices 33 s.status

/-- All that `CheckVoiceIrq` does: the two aggregate bits, the event, the cursor. -/
theorem State.checkVoiceIrq_eq : s.checkVoiceIrq = { s with
    irqStatus := s.aggregatedStatus
    status := s.aggregatedCursor
    out := s.out ++ ({ s with irqStatus := s.aggregatedStatus } : State).irqEvents } := by
  unfold State.checkVoiceIrq State.aggregatedCursor State.totalPending
  simp only
  split <;> rename_i h <;> rw [State.checkIrq_eq] <;> rfl

@[simp] theorem State.checkVoiceIrq_voices : s.checkVoiceIrq.voices = s.voices := by
  rw [State.checkVoiceIrq_eq]
@[simp] theorem State.checkVoiceIrq_waveState : s.checkVoiceIrq.waveState = s.waveState := by
  rw [State.checkVoiceIrq_eq]
@[simp] theorem State.checkVoiceIrq_volState : s.checkVoiceIrq.volState = s.volState := by
  rw [State.checkVoiceIrq_eq]
@[simp] theorem State.checkVoiceIrq_status : s.checkVoiceIrq.status = s.aggregatedCursor := by
  rw [State.checkVoiceIrq_eq]
@[simp] theorem State.checkVoiceIrq_selectedRegister : s.checkVoiceIrq.selectedRegister = s.selectedRegister := by
  rw [State.checkVoiceIrq_eq]
@[simp] theorem State.checkVoiceIrq_registerData : s.checkVoiceIrq.registerData = s.registerData := by
  rw [State.checkVoiceIrq_eq]
@[simp] theorem State.checkVoiceIrq_voiceIndex : s.checkVoiceIrq.voiceIndex = s.voiceIndex := by
  rw [State.checkVoiceIrq_eq]
@[simp] theorem State.checkVoiceIrq_voiceSelected : s.checkVoiceIrq.voiceSelected = s.voiceSelected := by
  rw [State.checkVoiceIrq_eq]
@[simp] theorem State.checkVoiceIrq_activeVoices : s.checkVoiceIrq.activeVoices = s.activeVoices := by
  rw [State.checkVoiceIrq_eq]
@[simp] theorem State.checkVoiceIrq_activeVoiceMask : s.checkVoiceIrq.activeVoiceMask = s.activeVoiceMask := by
  rw [State.checkVoiceIrq_eq]
@[simp] theorem State.checkVoiceIrq_irqStatus : s.checkVoiceIrq.irqStatus = s.aggregatedStatus := by
  rw [State.checkVoiceIrq_eq]
@[simp] theorem State.checkVoiceIrq_irqEnabled : s.checkVoiceIrq.irqEnabled = s.irqEnabled := by
  rw [State.checkVoiceIrq_eq]
@[simp] theorem State.checkVoiceIrq_outputEnabled : s.checkVoiceIrq.outputEnabled = s.outputEnabled := by
  rw [State.checkVoiceIrq_eq]
@[simp] theorem State.checkVoiceIrq_dmaCtrl : s.checkVoiceIrq.dmaCtrl = s.dmaCtrl := by
  rw [State.checkVoiceIrq_eq]
@[simp] theorem State.checkVoiceIrq_dmaAddr : s.checkVoiceIrq.dmaAddr = s.dmaAddr := by
  rw [State.checkVoiceIrq_eq]
@[simp] theorem State.checkVoiceIrq_dmaScheduled : s.checkVoiceIrq.dmaScheduled = s.dmaScheduled := by
  rw [State.checkVoiceIrq_eq]
@[simp] theorem State.checkVoiceIrq_dramAddr : s.checkVoiceIrq.dramAddr = s.dramAddr := by
  rw [State.checkVoiceIrq_eq]
@[simp] theorem State.checkVoiceIrq_mixCtrl : s.checkVoiceIrq.mixCtrl = s.mixCtrl := by
  rw [State.checkVoiceIrq_eq]
@[simp] theorem State.checkVoiceIrq_shouldApply : s.checkVoiceIrq.shouldApply = s.shouldApply := by
  rw [State.checkVoiceIrq_eq]
@[simp] theorem State.checkVoiceIrq_sampleCtrl : s.checkVoiceIrq.sampleCtrl = s.sampleCtrl := by
  rw [State.checkVoiceIrq_eq]
@[simp] theorem State.checkVoiceIrq_timerCtrl : s.checkVoiceIrq.timerCtrl = s.timerCtrl := by
  rw [State.checkVoiceIrq_eq]
@[simp] theorem State.checkVoiceIrq_timer1 : s.checkVoiceIrq.timer1 = s.timer1 := by
  rw [State.checkVoiceIrq_eq]
@[simp] theorem State.checkVoiceIrq_timer2 : s.checkVoiceIrq.timer2 = s.timer2 := by
  rw [State.checkVoiceIrq_eq]
@[simp] theorem State.checkVoiceIrq_adlibCommand : s.checkVoiceIrq.adlibCommand = s.adlibCommand := by
  rw [State.checkVoiceIrq_eq]
@[simp] theorem State.checkVoiceIrq_dmaChannel : s.checkVoiceIrq.dmaChannel = s.dmaChannel := by
  rw [State.checkVoiceIrq_eq]
@[simp] theorem State.checkVoiceIrq_irqNumber : s.checkVoiceIrq.irqNumber = s.irqNumber := by
  rw [State.checkVoiceIrq_eq]
@[simp] theorem State.checkVoiceIrq_ram : s.checkVoiceIrq.ram = s.ram := by rw [State.checkVoiceIrq_eq]
@[simp] theorem State.checkVoiceIrq_acc : s.checkVoiceIrq.acc = s.acc := by rw [State.checkVoiceIrq_eq]
@[simp] theorem State.checkVoiceIrq_peakLeft : s.checkVoiceIrq.peakLeft = s.peakLeft := by
  rw [State.checkVoiceIrq_eq]
@[simp] theorem State.checkVoiceIrq_peakRight : s.checkVoiceIrq.peakRight = s.peakRight := by
  rw [State.checkVoiceIrq_eq]
@[simp] theorem State.checkVoiceIrq_params : s.checkVoiceIrq.params = s.params := by
  rw [State.checkVoiceIrq_eq]
@[simp] theorem State.checkVoiceIrq_inbox : s.checkVoiceIrq.inbox = s.inbox := by
  rw [State.checkVoiceIrq_eq]
@[simp] theorem State.checkVoiceIrq_reply : s.checkVoiceIrq.reply = s.reply := by
  rw [State.checkVoiceIrq_eq]
@[simp] theorem State.checkVoiceIrq_draws : s.checkVoiceIrq.draws = s.draws := by
  rw [State.checkVoiceIrq_eq]
@[simp] theorem State.checkVoiceIrq_voice (v : Fin 32) : s.checkVoiceIrq.voice v = s.voice v := by
  simp [State.voice]

/-- The aggregation keeps the pending words. -/
@[simp] theorem State.checkVoiceIrq_totalPending : s.checkVoiceIrq.totalPending = s.totalPending := by
  simp [State.totalPending]

/-- The aggregation never sets a bit that `irq_status` does not have (`10_state.md` R30). -/
theorem State.aggregatedStatus_unused (h : s.irqStatus &&& 0x13#8 = 0) :
    s.aggregatedStatus &&& 0x13#8 = 0 := by
  have key : ∀ a v w : Byte, a &&& 0x13#8 = 0#8 → v &&& 0x13#8 = 0#8 → w &&& 0x13#8 = 0#8 →
      ((a &&& 0x9F#8) ||| v ||| w) &&& 0x13#8 = 0#8 := by
    intro a v w ha hv hw
    apply BitVec.eq_of_getLsbD_eq
    intro i hi
    have h1 := congrArg (BitVec.getLsbD · i) ha
    have h2 := congrArg (BitVec.getLsbD · i) hv
    have h3 := congrArg (BitVec.getLsbD · i) hw
    simp only [BitVec.getLsbD_and, BitVec.getLsbD_or, BitVec.getLsbD_zero] at h1 h2 h3 ⊢
    generalize a.getLsbD i = x, v.getLsbD i = y, w.getLsbD i = z, (0x13#8).getLsbD i = m,
      (0x9F#8).getLsbD i = n at *
    clear ha hv hw
    cases x <;> cases y <;> cases z <;> cases m <;> simp_all
  unfold State.aggregatedStatus aggregated
  exact key _ _ _ h (by split <;> decide) (by split <;> decide)

end Sys2Proof.Machine
end

