-- ==== Sys2Proof/Laws/Memory.lean ====
section
/-! SUPPORT. Sample RAM: a byte reads back as it was written, a write leaves every other byte, and every
memory operation keeps the canonical form. -/

namespace Sys2Proof.Machine

/-- A stored byte reads back. -/
@[simp] theorem Memory.find_store_same (m : Memory) (a : Nat) (b : Byte) :
    (m.store a b).find a = some b := by
  induction m with
  | nil => simp [Memory.store, Memory.find]
  | cons c m ih =>
    obtain ⟨k, v⟩ := c
    simp only [Memory.store]
    split
    · simp [Memory.find]
    · split
      · simp [Memory.find]
      · rename_i h
        simp [Memory.find, Ne.symm h, ih]

/-- A store leaves every other byte. -/
theorem Memory.find_store_other (m : Memory) {a c : Nat} (b : Byte) (h : c ≠ a) :
    (m.store a b).find c = m.find c := by
  induction m with
  | nil => simp [Memory.store, Memory.find, h.symm]
  | cons e m ih =>
    obtain ⟨k, v⟩ := e
    simp only [Memory.store]
    split
    · simp [Memory.find, h.symm]
    · split
      · rename_i e; subst e; simp [Memory.find, h.symm]
      · simp [Memory.find, ih]

/-- What a store can list: what was listed, and the stored byte. -/
theorem Memory.mem_store {m : Memory} {a : Nat} {b : Byte} {c : Host.Cell} (h : c ∈ m.store a b) :
    c = (a, b) ∨ c ∈ m := by
  induction m with
  | nil => simpa [Memory.store] using h
  | cons e m ih =>
    obtain ⟨k, v⟩ := e
    simp only [Memory.store] at h
    split at h
    · simpa using h
    · split at h
      · simp only [List.mem_cons] at h ⊢
        tauto
      · simp only [List.mem_cons] at h ⊢
        rcases h with h | h
        · exact .inr (.inl h)
        · rcases ih h with h | h
          · exact .inl h
          · exact .inr (.inr h)

/-- A store inside the 1 MB keeps the canonical form. -/
theorem Memory.wf_store {m : Memory} (h : m.wf) {a : Nat} (ha : a < Config.ramSize) (b : Byte) :
    (m.store a b).wf := by
  refine ⟨?_, fun c hc => ?_⟩
  · obtain ⟨h, -⟩ := h
    induction m with
    | nil => simp [Memory.store]
    | cons e m ih =>
      obtain ⟨k, v⟩ := e
      obtain ⟨h1, h2⟩ := List.pairwise_cons.mp h
      simp only [Memory.store]
      split
      · refine List.pairwise_cons.mpr ⟨?_, h⟩
        intro c hc
        rcases List.mem_cons.mp hc with rfl | hc
        · assumption
        · exact Nat.lt_trans ‹a < k› (h1 c hc)
      · split
        · rename_i e; subst e
          exact List.pairwise_cons.mpr ⟨h1, h2⟩
        · refine List.pairwise_cons.mpr ⟨?_, ih h2⟩
          intro c hc
          rcases Memory.mem_store hc with rfl | hc
          · simp only; omega
          · exact h1 c hc
  · rcases Memory.mem_store hc with rfl | hc
    · exact ha
    · exact h.2 c hc

/-- RAM lists nothing at power-on, which is canonical. -/
theorem State.wf_powerOn (p : Params) : (State.powerOn p).ram.wf := by
  simp [State.powerOn, Memory.wf]

theorem State.wf_writeRam {s : State} (h : s.ram.wf) (a : RamAddr) (b : Byte) : (s.writeRam a b).ram.wf :=
  Memory.wf_store h a.isLt b

/-- `RAM[a] <- b` reads back. -/
@[simp] theorem State.ramByte_writeRam_same (s : State) (a : RamAddr) (b : Byte) :
    (s.writeRam a b).ramByte a = b := by
  simp [State.ramByte]

/-- `RAM[a] <- b` leaves every other byte. -/
theorem State.ramByte_writeRam_other (s : State) {a c : RamAddr} (b : Byte) (h : c ≠ a) :
    (s.writeRam a b).ramByte c = s.ramByte c := by
  have : c.toNat ≠ a.toNat := fun e => h (BitVec.eq_of_toNat_eq e)
  simp [State.ramByte, Memory.find_store_other _ _ this]

/-- The next address, short of the end of RAM. -/
theorem RamAddr.toNat_succ {a : RamAddr} (h : a.toNat + 1 < 0x100000) : (a + 1).toNat = a.toNat + 1 := by
  have : (1 : RamAddr).toNat = 1 := rfl
  rw [BitVec.toNat_add, this]
  omega

/-- A write of several bytes changes RAM only. -/
theorem State.writeBytes_eq (bs : List Byte) (s : State) (a : RamAddr) :
    s.writeBytes a bs = { s with ram := (s.writeBytes a bs).ram } := by
  induction bs generalizing s a with
  | nil => rfl
  | cons b bs ih => simp only [State.writeBytes]; rw [ih]; rfl

/-- A write of several bytes keeps the canonical form. -/
theorem State.wf_writeBytes {s : State} (h : s.ram.wf) (a : RamAddr) (bs : List Byte) :
    (s.writeBytes a bs).ram.wf := by
  induction bs generalizing s a with
  | nil => exact h
  | cons b bs ih => exact ih (State.wf_writeRam h a b) _

/-- What a write of several bytes inside RAM leaves at each address. -/
theorem State.ramByte_writeBytes (bs : List Byte) (s : State) (a c : RamAddr)
    (hr : a.toNat + bs.length ≤ 0x100000) :
    (s.writeBytes a bs).ramByte c =
      if a.toNat ≤ c.toNat then (bs[c.toNat - a.toNat]?).getD (s.ramByte c) else s.ramByte c := by
  induction bs generalizing s a with
  | nil => simp [State.writeBytes]
  | cons b bs ih =>
    simp only [List.length_cons] at hr
    have ha := a.isLt
    have hc := c.isLt
    simp only [State.writeBytes]
    by_cases hb : bs = []
    · subst hb
      simp only [State.writeBytes]
      by_cases e : c = a
      · subst e; simp
      · rw [State.ramByte_writeRam_other _ _ e]
        have : c.toNat ≠ a.toNat := fun e' => e (BitVec.eq_of_toNat_eq e')
        split
        · have : c.toNat - a.toNat ≠ 0 := by omega
          obtain ⟨n, hn⟩ := Nat.exists_eq_succ_of_ne_zero this
          simp [hn]
        · rfl
    · have hl : 0 < bs.length := List.length_pos_iff.mpr hb
      have h1 : (a + 1).toNat = a.toNat + 1 := RamAddr.toNat_succ (by omega)
      rw [ih _ _ (by omega), h1]
      by_cases e : c = a
      · subst e; simp
      · have : c.toNat ≠ a.toNat := fun e' => e (BitVec.eq_of_toNat_eq e')
        rw [State.ramByte_writeRam_other _ _ e]
        by_cases hle : a.toNat ≤ c.toNat
        · have h2 : a.toNat + 1 ≤ c.toNat := by omega
          have h3 : c.toNat - a.toNat = (c.toNat - (a.toNat + 1)) + 1 := by omega
          simp [hle, h2, h3]
        · have h2 : ¬ a.toNat + 1 ≤ c.toNat := by omega
          simp [hle, h2]

/-- What was written is what is read. -/
theorem State.readBytes_writeBytes (bs : List Byte) (s : State) (a : RamAddr)
    (hr : a.toNat + bs.length ≤ 0x100000) :
    (s.writeBytes a bs).readBytes a bs.length = bs := by
  have aux : ∀ (t : State) (n : Nat) (c : RamAddr), c.toNat + n ≤ 0x100000 →
      t.readBytes c n = (List.range n).map fun k => t.ramByte (BitVec.ofNat 20 (c.toNat + k)) := by
    intro t n
    induction n with
    | zero => simp [State.readBytes]
    | succ n ih =>
      intro c hc
      simp only [State.readBytes, List.range_succ_eq_map, List.map_cons, List.map_map]
      by_cases hn : n = 0
      · subst hn; simp [State.readBytes]
      · have h1 : (c + 1).toNat = c.toNat + 1 := RamAddr.toNat_succ (by omega)
        rw [ih _ (by omega), h1]
        simp [Function.comp_def, Nat.add_assoc, Nat.add_comm 1]
  rw [aux _ _ _ hr]
  apply List.ext_getElem (by simp)
  intro k h1 h2
  simp only [List.getElem_map, List.getElem_range]
  rw [State.ramByte_writeBytes _ _ _ _ hr]
  have : (BitVec.ofNat 20 (a.toNat + k)).toNat = a.toNat + k := by
    simp only [BitVec.toNat_ofNat]; omega
  simp [this, h2]

end Sys2Proof.Machine
end

