-- ==== Sys2Proof/Laws/Dma.lean ====
section
/-! SUPPORT. All that a `DMA` step and a timer expiry can do (`46_dma.md` R312 to R316,
`60_exceptions.md` R371). -/

namespace Sys2Proof.Machine

/-! ### Conversion -/

@[simp] theorem length_converted (pcm16 : Bool) : ∀ (bs : List Byte) (odd : Bool),
    (converted pcm16 odd bs).length = bs.length
  | [], _ => rfl
  | b :: bs, odd => by simp [converted, length_converted pcm16 bs]

@[simp] theorem length_uploaded (c : Byte) (bs : List Byte) : (uploaded c bs).length = bs.length := by
  unfold uploaded
  split <;> simp

/-- Which bytes a conversion flips (`46_dma.md` R315). -/
theorem getElem?_converted (pcm16 : Bool) : ∀ (bs : List Byte) (odd : Bool) (k : Nat),
    (converted pcm16 odd bs)[k]? =
      bs[k]?.map fun b => if !pcm16 || (k % 2 == 1) != odd then flipSign b else b
  | [], _, _ => by simp [converted]
  | b :: bs, odd, 0 => by cases odd <;> simp [converted]
  | b :: bs, odd, k + 1 => by
    have h : ((k % 2 == 1) != !odd) = (((k + 1) % 2 == 1) != odd) := by
      rcases Nat.mod_two_eq_zero_or_one k with e | e <;> cases odd <;> simp [e, Nat.add_mod]
    simp [converted, getElem?_converted pcm16 bs, h]

/-! ### The `DMA` step -/

/-- All that `Finish` does (`46_dma.md` R316). -/
theorem State.dmaFinish_eq (s : State) : s.dmaFinish = { s with
    irqStatus := s.dmaFinish.irqStatus, out := s.dmaFinish.out
    dmaScheduled := !dmaTcIrq s.dmaCtrl } := by
  unfold State.dmaFinish
  split
  · rename_i h
    rw [State.checkIrq_eq, h]
    rfl
  · rename_i h
    rw [Bool.not_eq_true] at h
    rw [h]
    rfl

/-- All that a transfer can do: the range fault, a download, or an upload. -/
theorem dmaTransfer_cases (bytes : List Byte) (s : State) :
    let base := dmaBase s.dmaCtrl s.dmaChannel s.dmaAddr
    (0x100000 < base.toNat + bytes.length ∧ dmaTransfer bytes s = .fault .dmaRange) ∨
      (base.toNat + bytes.length ≤ 0x100000 ∧ dmaDownload s.dmaCtrl = true ∧
        dmaTransfer bytes s =
          .next ((s.emit (.hostWrite s.dmaChannel (s.readBytes base bytes.length))).dmaFinish)) ∨
      (base.toNat + bytes.length ≤ 0x100000 ∧ dmaDownload s.dmaCtrl = false ∧
        dmaTransfer bytes s = .next ((s.writeBytes base (uploaded s.dmaCtrl bytes)).dmaFinish)) := by
  intro base
  unfold dmaTransfer Config.ramSize
  simp only
  by_cases h : 0x100000 < base.toNat + bytes.length
  · exact .inl ⟨h, if_pos h⟩
  · rw [if_neg h]
    cases hd : dmaDownload s.dmaCtrl
    · exact .inr (.inr ⟨by omega, rfl, rfl⟩)
    · exact .inr (.inl ⟨by omega, rfl, rfl⟩)

/-- All that a `DMA` step can do, with the host channel of number `dma_channel`. -/
theorem dmaStep_cases (channels : Vector HostChannel 8) (s : State) :
    let chan := channels[s.dmaChannel]
    (s.dmaScheduled = false ∧ dmaStep channels s = .next s) ∨
      (s.dmaScheduled = true ∧ (chan.masked = true ∨ dmaEnabled s.dmaCtrl = false) ∧
        dmaStep channels s = .next { s with dmaScheduled := false }) ∨
      (s.dmaScheduled = true ∧ chan.masked = false ∧ dmaEnabled s.dmaCtrl = true ∧
        dmaStep channels s = dmaTransfer chan.bytes s) := by
  intro chan
  unfold dmaStep
  simp only
  rw [show channels[s.dmaChannel] = chan from rfl]
  cases hs : s.dmaScheduled <;> cases hm : chan.masked <;> cases he : dmaEnabled s.dmaCtrl <;> simp

/-- The first byte of a transfer lies in RAM (`20_memory.md` R71), with the translation as integers. -/
theorem toNat_dmaAddr8 (a : Half) : (dmaAddr8 a).toNat = 16 * a.toNat := by
  have := a.isLt
  simp [dmaAddr8, Nat.shiftLeft_eq]
  omega

/-! ### Timers -/

/-- All that the interrupt part of an expiry does. -/
theorem State.timerIrq_eq (s : State) (raise : Bool) (bit : Byte) : s.timerIrq raise bit =
    { s with irqStatus := (s.timerIrq raise bit).irqStatus, out := (s.timerIrq raise bit).out } := by
  unfold State.timerIrq
  split
  · rw [State.checkIrq_eq]
  · rfl

@[simp] theorem Timer.expire_value (t : Timer) : t.expire.value = t.value := by
  unfold Timer.expire; split <;> rfl
@[simp] theorem Timer.expire_masked (t : Timer) : t.expire.masked = t.masked := by
  unfold Timer.expire; split <;> rfl
@[simp] theorem Timer.expire_raiseIrq (t : Timer) : t.expire.raiseIrq = t.raiseIrq := by
  unfold Timer.expire; split <;> rfl
@[simp] theorem Timer.expire_counting (t : Timer) : t.expire.counting = t.counting := by
  unfold Timer.expire; split <;> rfl
@[simp] theorem Timer.expire_expired (t : Timer) : t.expire.expired = (t.expired || !t.masked) := by
  unfold Timer.expire; split <;> simp_all

end Sys2Proof.Machine
end

