-- ==== Sys2Proof/Laws/Exact.lean ====
section
/-! SUPPORT. The `Exact` numbers are the real numbers they stand for: sums, products, the order, absolute value
and maximum, truncated quotients, the parameters and the pan table (`00_scope.md` R14, `43_voice_render.md`
R192). -/

namespace Sys2Proof

open Real

/-! ### The open numbers -/

/-- The values of the open numbers are in their ranges, and give the order. -/
theorem Config.openValue_spec : (∀ u : OpenReal, u.inRange (Config.openValue u)) ∧
    ∀ x : Exact, Config.openOrder.sign x = SignType.sign (x.value Config.openValue) :=
  Classical.epsilon_spec (Config.openOrder.isOrder CosSum.sign_eq)

/-! ### Sums and products -/

@[simp] theorem Exact.toReal_zero : Exact.zero.toReal = 0 := by simp [toReal, value, zero]

@[simp] theorem Exact.toReal_ofRat (q : Rat) : (Exact.ofRat q).toReal = q := by
  simp [toReal, value, ofRat]

@[simp] theorem Exact.toReal_cosine {k : Nat} (h : k ≤ 112) :
    (Exact.cosine k).toReal = cos (k * (π / 224)) := by simp [toReal, value, cosine, h]

@[simp] theorem Exact.toReal_power (u : OpenReal) (e : Int) :
    (Exact.power u e).toReal = Config.openValue u ^ e := by
  simp [toReal, value, power, Monomial.value]

theorem sum_insertMultiple (f : Monomial → ℝ) (m : Monomial) (c : CosSum) : ∀ ts : List (Monomial × CosSum),
    ((insertMultiple m c ts).map fun t => t.2.toReal * f t.1).sum =
      c.toReal * f m + (ts.map fun t => t.2.toReal * f t.1).sum
  | [] => by
    unfold insertMultiple
    split <;> simp_all
  | (n, d) :: ts => by
    unfold insertMultiple
    split
    · rename_i h
      subst h
      have hd := CosSum.toReal_add d c
      split
      · rename_i h
        rw [h, CosSum.toReal_zero] at hd
        simp only [List.map_cons, List.sum_cons]
        linear_combination (f m) * hd
      · simp only [List.map_cons, List.sum_cons, hd]
        ring
    · simp only [List.map_cons, List.sum_cons, sum_insertMultiple f m c ts]
      ring

@[simp] theorem Exact.toReal_addMultiple (m : Monomial) (c : CosSum) (x : Exact) :
    (x.addMultiple m c).toReal = c.toReal * m.value Config.openValue + x.toReal := by
  unfold addMultiple toReal value
  split
  · simp_all [Monomial.value]
    ring
  · rw [sum_insertMultiple fun m => m.value Config.openValue]
    ring

theorem Exact.toReal_eq_multiples (x : Exact) :
    x.toReal = (x.multiples.map fun t => t.2.toReal * t.1.value Config.openValue).sum := by
  simp [toReal, value, multiples, Monomial.value]

@[simp] theorem Exact.toReal_add (x y : Exact) : (x.add y).toReal = x.toReal + y.toReal := by
  rw [x.toReal_eq_multiples, add]
  induction x.multiples with
  | nil => simp
  | cons t ts ih => rw [List.foldr_cons, toReal_addMultiple, ih, List.map_cons, List.sum_cons, add_assoc]

@[simp] theorem Exact.toReal_scale (q : Rat) (x : Exact) : (x.scale q).toReal = q * x.toReal := by
  unfold scale
  split
  · simp_all
  · unfold toReal value
    rw [List.map_map, mul_add, ← List.sum_map_mul_left, CosSum.toReal_scale]
    congr 2
    apply List.map_congr_left
    intro t _
    simp [mul_assoc]

@[simp] theorem Exact.toReal_neg (x : Exact) : x.neg.toReal = -x.toReal := by simp [neg]

@[simp] theorem Exact.toReal_sub (x y : Exact) : (x.sub y).toReal = x.toReal - y.toReal := by
  simp [sub, sub_eq_add_neg]

@[simp] theorem Exact.toReal_mul (x y : Exact) : (x.mul y).toReal = x.toReal * y.toReal := by
  have inner : ∀ (s : Monomial × CosSum) (ys : List (Monomial × CosSum)) (z : Exact),
      (ys.foldr (fun t z => z.addMultiple (s.1 ++ t.1) (s.2.mul t.2)) z).toReal =
        s.2.toReal * s.1.value Config.openValue *
          (ys.map fun t => t.2.toReal * t.1.value Config.openValue).sum + z.toReal := by
    intro s ys z
    induction ys with
    | nil => simp
    | cons t ys ih =>
      simp only [List.foldr_cons, toReal_addMultiple, ih, List.map_cons, List.sum_cons, CosSum.toReal_mul,
        Monomial.value, List.map_append, List.prod_append]
      ring
  rw [x.toReal_eq_multiples, y.toReal_eq_multiples, mul]
  induction x.multiples with
  | nil => simp
  | cons s xs ih => rw [List.foldr_cons, inner, ih, List.map_cons, List.sum_cons, add_mul]

/-! ### The order -/

/-- The sign is the sign of the real number. -/
theorem Exact.sign_eq (x : Exact) : x.sign = SignType.sign x.toReal := by
  unfold sign
  split
  · rename_i h
    simp [CosSum.sign_eq, toReal, value, h]
  · exact Config.openValue_spec.2 x

theorem Exact.sign_eq_one (x : Exact) : x.sign = 1 ↔ 0 < x.toReal := by rw [sign_eq, sign_eq_one_iff]

theorem Exact.sign_eq_neg_one (x : Exact) : x.sign = -1 ↔ x.toReal < 0 := by rw [sign_eq, sign_eq_neg_one_iff]

/-- `lt` decides the order of the reals. -/
@[simp] theorem Exact.lt_iff (x y : Exact) : x.lt y = true ↔ x.toReal < y.toReal := by
  simp [lt, sign_eq_one]

@[simp] theorem Exact.toReal_abs (x : Exact) : x.abs.toReal = |x.toReal| := by
  unfold abs
  split
  · rename_i h
    rw [toReal_neg, abs_of_neg (x.sign_eq_neg_one.1 h)]
  · rename_i h
    rw [abs_of_nonneg (not_lt.1 fun hc => h (x.sign_eq_neg_one.2 hc))]

@[simp] theorem Exact.toReal_max (x y : Exact) : (x.max y).toReal = x.toReal ⊔ y.toReal := by
  unfold max
  split
  · rename_i h
    rw [max_eq_right (x.lt_iff y |>.1 h).le]
  · rename_i h
    rw [max_eq_left (not_lt.1 fun hc => h (x.lt_iff y |>.2 hc))]

/-! ### Truncated quotients -/

theorem Machine.quotientBits_spec {x y : Exact} (hx : 0 ≤ x.toReal) : ∀ b n : Nat,
    (n : ℝ) * y.toReal ≤ x.toReal → x.toReal < ((n + 2 ^ b : ℕ) : ℝ) * y.toReal →
      (Machine.quotientBits x y b n : ℝ) * y.toReal ≤ x.toReal ∧
        x.toReal < ((Machine.quotientBits x y b n + 1 : ℕ) : ℝ) * y.toReal
  | 0, n, h1, h2 => ⟨h1, h2⟩
  | b + 1, n, h1, h2 => by
    unfold Machine.quotientBits
    have key := x.lt_iff (y.scale ((n + 2 ^ b : ℕ) : ℚ))
    rw [Exact.toReal_scale, Rat.cast_natCast] at key
    split
    · rename_i h
      exact quotientBits_spec hx b n h1 (key.1 h)
    · rename_i h
      refine quotientBits_spec hx b _ (not_lt.1 fun hc => h (key.2 hc)) ?_
      rwa [add_assoc, ← two_mul, ← pow_succ']

theorem Machine.quotientBits_eq {x y : Exact} (hx : 0 ≤ x.toReal) (hy : 0 < y.toReal)
    (h : x.toReal < 32768 * y.toReal) : (Machine.quotientBits x y 15 0 : ℤ) = ⌊x.toReal / y.toReal⌋ := by
  obtain ⟨h1, h2⟩ := Machine.quotientBits_spec (y := y) hx 15 0 (by simpa using hx) (by norm_num; exact h)
  rw [eq_comm, Int.floor_eq_iff, le_div_iff₀ hy, div_lt_iff₀ hy]
  push_cast at h2 ⊢
  exact ⟨h1, h2⟩

/-- The quotient is truncated toward zero. -/
theorem Machine.truncQuotient_eq {x y : Exact} (hy : 0 < y.toReal) (h : |x.toReal| < 32768 * y.toReal) :
    Machine.truncQuotient x y = truncate (x.toReal / y.toReal) := by
  obtain ⟨h1, h2⟩ := abs_lt.1 h
  unfold Machine.truncQuotient truncate
  by_cases hx : x.toReal < 0
  · rw [if_pos (x.sign_eq_neg_one.2 hx), if_pos (div_neg_of_neg_of_pos hx hy),
      Machine.quotientBits_eq (by simp [hx.le]) hy (by simp; linarith), Exact.toReal_neg, neg_div,
      Int.floor_neg, neg_neg]
  · have hx0 := not_lt.1 hx
    rw [if_neg fun hc => hx (x.sign_eq_neg_one.1 hc), if_neg (not_lt.2 (div_nonneg hx0 hy.le)),
      Machine.quotientBits_eq hx0 hy h2]

/-! ### The parameters -/

theorem RealParam.toReal_inversePower {p : RealParam} {u : Nat → OpenReal}
    (h : 0 < (p.number u).toReal) (k : Nat) :
    (p.inversePower u k).toReal = ((p.number u).toReal ^ k)⁻¹ := by
  cases p with
  | rational q =>
    simp only [number, inversePower, Exact.toReal_ofRat, Rat.cast_pos] at *
    have hq : (q : ℝ) = q.num.toNat / q.den := by
      have hn : ((q.num.toNat : ℕ) : ℤ) = q.num := Int.toNat_of_nonneg (Rat.num_nonneg.2 h.le)
      rw [Rat.cast_def, ← hn]
      push_cast
      rfl
    rw [Rat.mkRat_eq_div, hq, div_pow, inv_div]
    push_cast
    rfl
  | unknown n => simp [number, inversePower]

/-- A parameter within its bound, which is that of the unknown ones, is above it as a real number. -/
theorem RealParam.lt_toReal_number {p : RealParam} {u : Nat → OpenReal} {bound : Rat}
    (hu : ∀ n, (bound : ℝ) < Config.openValue (u n)) (h : p.above bound = true) :
    (bound : ℝ) < (p.number u).toReal := by
  cases p with
  | rational q => simpa [number, above] using h
  | unknown n => simpa [number] using hu n

/-- `VOL_STEP_RATIO` is above 1 (`92_eei_decisions.md` section 1). -/
theorem Params.one_lt_ratio {p : Params} (h : p.wellFormed = true) : 1 < p.ratio := by
  simp only [wellFormed, Bool.and_eq_true] at h
  simpa [ratio] using RealParam.lt_toReal_number (bound := 1)
    (fun n => by simpa [OpenReal.inRange] using Config.openValue_spec.1 (.volStepRatio n)) h.1.2

/-- `LIMIT_RELEASE` is positive (`47_output_limiter.md` R344). -/
theorem Params.release_pos {p : Params} (h : p.wellFormed = true) : 0 < p.release := by
  simp only [wellFormed, Bool.and_eq_true] at h
  simpa [release] using RealParam.lt_toReal_number (bound := 0)
    (fun n => by simpa [OpenReal.inRange] using Config.openValue_spec.1 (.limitRelease n)) h.2

/-! ### The pan table -/

theorem Machine.panAngle_le (p : Fin 16) : Machine.panAngle p ≤ 112 := by revert p; decide +kernel

/-- The angle is `θ(p)` (`43_voice_render.md` R191). -/
theorem Machine.panAngle_eq (p : Fin 16) :
    (Machine.panAngle p : ℝ) * (π / 224) = (Machine.panNorm p + 1 : ℚ) * π / 4 := by
  have h : ∀ p : Fin 16, (Machine.panAngle p : ℚ) = 56 * (Machine.panNorm p + 1) := by decide +kernel
  have h' : (Machine.panAngle p : ℝ) = 56 * (Machine.panNorm p + 1 : ℚ) := by exact_mod_cast h p
  rw [h']
  ring

/-- `PAN[p].left = cos θ(p)` under exact numerics (`43_voice_render.md` R192). -/
theorem Machine.toReal_panLeft {q : Params} (h : q.numerics = .exact) (p : Fin 16) :
    (Machine.panLeft q p).toReal = cos ((Machine.panNorm p + 1 : ℚ) * π / 4) := by
  rw [Machine.panLeft, h, ← Machine.panAngle_eq]
  exact Exact.toReal_cosine (Machine.panAngle_le p)

/-- `PAN[p].right = sin θ(p)` under exact numerics (`43_voice_render.md` R192). -/
theorem Machine.toReal_panRight {q : Params} (h : q.numerics = .exact) (p : Fin 16) :
    (Machine.panRight q p).toReal = sin ((Machine.panNorm p + 1 : ℚ) * π / 4) := by
  rw [Machine.panRight, h, ← Machine.panAngle_eq, ← cos_pi_div_two_sub]
  refine (Exact.toReal_cosine (Nat.sub_le _ _)).trans ?_
  rw [Nat.cast_sub (Machine.panAngle_le p)]
  congr 1
  push_cast
  ring

end Sys2Proof
end

