-- ==== Sys2Proof/Laws/PerInstr.lean ====
section
/-! SUPPORT. A family of facts about every instruction as syntax, one lemma for each constructor of `Instr`:
its encoding has the length and the leading field of its row of `spec/opcode_table.json`. -/

namespace Sys2Proof.Laws.EncodedFormat

/-- The encoding of a command has the format of its row (`30_encoding.md` R92, R96): four bytes for a bus
transaction, of which the upper two hold the port and the direction, three for a register write command,
whose last is the id, one for a register read command. -/
def Statement (i : Instr) : Prop :=
  (∃ hi val : Half, encode i = encodeBtw hi val ∧ hi.extractLsb' 12 2 = 0) ∨
    (∃ (id : Byte) (data : Half), encode i = encodeRegw id data ∧ id.toNat < 0x80) ∨
    ∃ id : Byte, encode i = [id]

theorem outbMixCtrl (v : Half) : Statement (.outbMixCtrl v) := .inl ⟨_, _, rfl, rfl⟩
theorem inbIrqStatus : Statement .inbIrqStatus := .inl ⟨_, _, rfl, rfl⟩
theorem inbTimerStatus : Statement .inbTimerStatus := .inl ⟨_, _, rfl, rfl⟩
theorem outbAdlibCmd (v : Half) : Statement (.outbAdlibCmd v) := .inl ⟨_, _, rfl, rfl⟩
theorem outbTimerCmd (v : Half) : Statement (.outbTimerCmd v) := .inl ⟨_, _, rfl, rfl⟩
theorem inbAdlibCmdRb : Statement .inbAdlibCmdRb := .inl ⟨_, _, rfl, rfl⟩
theorem outbChanSelect (v : Half) : Statement (.outbChanSelect v) := .inl ⟨_, _, rfl, rfl⟩
theorem outbVoiceIndex (v : Half) : Statement (.outbVoiceIndex v) := .inl ⟨_, _, rfl, rfl⟩
theorem inbVoiceIndex : Statement .inbVoiceIndex := .inl ⟨_, _, rfl, rfl⟩
theorem outbRegSelect (v : Half) : Statement (.outbRegSelect v) := .inl ⟨_, _, rfl, rfl⟩
theorem inbRegSelect : Statement .inbRegSelect := .inl ⟨_, _, rfl, rfl⟩
theorem outbRegDataLo (v : Half) : Statement (.outbRegDataLo v) := .inl ⟨_, _, rfl, rfl⟩
theorem outwRegData (v : Half) : Statement (.outwRegData v) := .inl ⟨_, _, rfl, rfl⟩
theorem outbRegDataHi (v : Half) : Statement (.outbRegDataHi v) := .inl ⟨_, _, rfl, rfl⟩
theorem inbRegDataLo : Statement .inbRegDataLo := .inl ⟨_, _, rfl, rfl⟩
theorem inwRegData : Statement .inwRegData := .inl ⟨_, _, rfl, rfl⟩
theorem inbRegDataHi : Statement .inbRegDataHi := .inl ⟨_, _, rfl, rfl⟩
theorem inbDramData : Statement .inbDramData := .inl ⟨_, _, rfl, rfl⟩
theorem outbDramData (v : Half) : Statement (.outbDramData v) := .inl ⟨_, _, rfl, rfl⟩
theorem waveCtrl (v : Half) : Statement (.waveCtrl v) := .inr (.inl ⟨_, _, rfl, by decide⟩)
theorem waveRate (v : Half) : Statement (.waveRate v) := .inr (.inl ⟨_, _, rfl, by decide⟩)
theorem waveStartMsw (v : Half) : Statement (.waveStartMsw v) := .inr (.inl ⟨_, _, rfl, by decide⟩)
theorem waveStartLsw (v : Half) : Statement (.waveStartLsw v) := .inr (.inl ⟨_, _, rfl, by decide⟩)
theorem waveEndMsw (v : Half) : Statement (.waveEndMsw v) := .inr (.inl ⟨_, _, rfl, by decide⟩)
theorem waveEndLsw (v : Half) : Statement (.waveEndLsw v) := .inr (.inl ⟨_, _, rfl, by decide⟩)
theorem volRate (v : Half) : Statement (.volRate v) := .inr (.inl ⟨_, _, rfl, by decide⟩)
theorem volStart (v : Half) : Statement (.volStart v) := .inr (.inl ⟨_, _, rfl, by decide⟩)
theorem volEnd (v : Half) : Statement (.volEnd v) := .inr (.inl ⟨_, _, rfl, by decide⟩)
theorem volCurrent (v : Half) : Statement (.volCurrent v) := .inr (.inl ⟨_, _, rfl, by decide⟩)
theorem wavePosMsw (v : Half) : Statement (.wavePosMsw v) := .inr (.inl ⟨_, _, rfl, by decide⟩)
theorem wavePosLsw (v : Half) : Statement (.wavePosLsw v) := .inr (.inl ⟨_, _, rfl, by decide⟩)
theorem pan (v : Half) : Statement (.pan v) := .inr (.inl ⟨_, _, rfl, by decide⟩)
theorem volCtrl (v : Half) : Statement (.volCtrl v) := .inr (.inl ⟨_, _, rfl, by decide⟩)
theorem activeVoices (v : Half) : Statement (.activeVoices v) := .inr (.inl ⟨_, _, rfl, by decide⟩)
theorem dmaCtrl (v : Half) : Statement (.dmaCtrl v) := .inr (.inl ⟨_, _, rfl, by decide⟩)
theorem dmaAddr (v : Half) : Statement (.dmaAddr v) := .inr (.inl ⟨_, _, rfl, by decide⟩)
theorem dramAddrA (v : Half) : Statement (.dramAddrA v) := .inr (.inl ⟨_, _, rfl, by decide⟩)
theorem dramAddrB (v : Half) : Statement (.dramAddrB v) := .inr (.inl ⟨_, _, rfl, by decide⟩)
theorem timerCtrl (v : Half) : Statement (.timerCtrl v) := .inr (.inl ⟨_, _, rfl, by decide⟩)
theorem timer1Value (v : Half) : Statement (.timer1Value v) := .inr (.inl ⟨_, _, rfl, by decide⟩)
theorem timer2Value (v : Half) : Statement (.timer2Value v) := .inr (.inl ⟨_, _, rfl, by decide⟩)
theorem sampleCtrl (v : Half) : Statement (.sampleCtrl v) := .inr (.inl ⟨_, _, rfl, by decide⟩)
theorem runtimeCtrl (v : Half) : Statement (.runtimeCtrl v) := .inr (.inl ⟨_, _, rfl, by decide⟩)
theorem rdDmaCtrl : Statement .rdDmaCtrl := .inr (.inr ⟨_, rfl⟩)
theorem rdDmaAddr : Statement .rdDmaAddr := .inr (.inr ⟨_, rfl⟩)
theorem rdTimerCtrl : Statement .rdTimerCtrl := .inr (.inr ⟨_, rfl⟩)
theorem rdSampleCtrl : Statement .rdSampleCtrl := .inr (.inr ⟨_, rfl⟩)
theorem rdWaveCtrl : Statement .rdWaveCtrl := .inr (.inr ⟨_, rfl⟩)
theorem rdWaveRate : Statement .rdWaveRate := .inr (.inr ⟨_, rfl⟩)
theorem rdWaveStartMsw : Statement .rdWaveStartMsw := .inr (.inr ⟨_, rfl⟩)
theorem rdWaveStartLsw : Statement .rdWaveStartLsw := .inr (.inr ⟨_, rfl⟩)
theorem rdWaveEndMsw : Statement .rdWaveEndMsw := .inr (.inr ⟨_, rfl⟩)
theorem rdWaveEndLsw : Statement .rdWaveEndLsw := .inr (.inr ⟨_, rfl⟩)
theorem rdVolRate : Statement .rdVolRate := .inr (.inr ⟨_, rfl⟩)
theorem rdVolStart : Statement .rdVolStart := .inr (.inr ⟨_, rfl⟩)
theorem rdVolEnd : Statement .rdVolEnd := .inr (.inr ⟨_, rfl⟩)
theorem rdVolCurrent : Statement .rdVolCurrent := .inr (.inr ⟨_, rfl⟩)
theorem rdWavePosMsw : Statement .rdWavePosMsw := .inr (.inr ⟨_, rfl⟩)
theorem rdWavePosLsw : Statement .rdWavePosLsw := .inr (.inr ⟨_, rfl⟩)
theorem rdPan : Statement .rdPan := .inr (.inr ⟨_, rfl⟩)
theorem rdVolCtrl : Statement .rdVolCtrl := .inr (.inr ⟨_, rfl⟩)
theorem rdVoiceIrq : Statement .rdVoiceIrq := .inr (.inr ⟨_, rfl⟩)

end Sys2Proof.Laws.EncodedFormat
end

