-- ==== Sys2Proof/Laws/Ports.lean ====
section
/-! SUPPORT. The register dispatch and the commands: a commit and a data-port read run the command that the
selected id encodes; what a control-byte write and a run-state action can do. -/

namespace Sys2Proof.Machine

/-- `RegWrite` runs the register write command of `selected_register` with the latched data, or changes
nothing if the id has no write rule (`45_global_registers.md` R277, R279). -/
theorem regWrite_cases (s : State) :
    (∃ i, decode (encodeRegw s.selectedRegister s.registerData) = .ok i ∧ regWrite s = exec i s) ∨
      ((∀ i, decode (encodeRegw s.selectedRegister s.registerData) ≠ .ok i) ∧
        regWrite s = .next s) := by
  simp only [decode, encodeRegw, joinBytes_high_low]
  unfold regWrite decodeRegw
  generalize s.selectedRegister.toNat = n
  split <;> first | exact .inl ⟨_, rfl, rfl⟩ | skip
  refine .inr ⟨fun i => by simp, ?_⟩
  first | rfl | (split <;> simp_all)

/-- `RegRead` runs the register read command of `selected_register`, or delivers the data latch if the id
has no read rule (`45_global_registers.md` R278, R279). -/
theorem regRead_cases (s : State) :
    (∃ i, decode [s.selectedRegister] = .ok i ∧ regRead s = exec i s) ∨
      ((∀ i, decode [s.selectedRegister] ≠ .ok i) ∧
        regRead s = .next (s.answerHalf s.registerData)) := by
  simp only [decode]
  unfold regRead decodeRegr
  generalize s.selectedRegister.toNat = n
  split <;> first | exact .inl ⟨_, rfl, rfl⟩ | skip
  refine .inr ⟨fun i => by simp, ?_⟩
  first | rfl | (split <;> simp_all)

/-- `RegRead` delivers 16 bits. -/
theorem regRead_half (s : State) : ∃ t r, regRead s = .next (State.answerHalf t r) := by
  unfold regRead
  split <;> exact ⟨_, _, rfl⟩

/-- A voice register write sets the current voice, or nothing. -/
theorem voiceWrite_eq (s t : State) : voiceWrite s t = .next (if s.voiceSelected then t else s) := rfl

/-- A voice register read changes the reply only. -/
theorem voiceRead_eq (s : State) (noVoice r : Half) :
    voiceRead s noVoice r = .next { s with reply := .half (if s.voiceSelected then r else noVoice) } := rfl

/-- A pending mask after a control-byte write (`44_voice_registers.md` R211). -/
theorem getLsbD_controlPending (p : Word) (v : Fin 32) (b : Byte) (k : Nat) :
    (controlPending p v b).getLsbD k = if k = v.val then forcesIrq b else p.getLsbD k := by
  unfold controlPending
  by_cases hk : k < 32
  · cases forcesIrq b <;>
      simp only [Bool.false_eq_true, if_false, if_true, BitVec.getLsbD_and, BitVec.getLsbD_or,
        BitVec.getLsbD_not, getLsbD_voiceBit] <;>
      by_cases e : k = v.val <;> simp [e, hk]
  · have hv := v.isLt
    have hkv : ¬ k = v.val := by omega
    rw [if_neg hkv, BitVec.getLsbD_of_ge _ _ (by omega), BitVec.getLsbD_of_ge _ _ (by omega)]

/-- All that a control-byte write can do: the pending mask and the flags of one track, and then the
aggregation or not. -/
theorem State.writeCtrl_cases (s : State) (axis : Axis) (b : Byte) :
    let t := (s.setPending axis (controlPending (s.pending axis) s.voiceIndex b)).setCur
      (s.cur.setTrack axis { s.cur.track axis with state := controlFlags b })
    (controlPending (s.pending axis) s.voiceIndex b = s.pending axis ∧ s.writeCtrl axis b = t) ∨
      (controlPending (s.pending axis) s.voiceIndex b ≠ s.pending axis ∧
        s.writeCtrl axis b = t.checkVoiceIrq) := by
  intro t
  unfold State.writeCtrl
  by_cases h : controlPending (s.pending axis) s.voiceIndex b = s.pending axis
  · exact .inl ⟨h, if_pos h⟩
  · exact .inr ⟨h, if_neg h⟩

/-- The four outcomes of a run-state action (`45_global_registers.md` R289). -/
theorem State.runAction_cases (s : State) (run : Nat) :
    (run = 0 ∧ s.runAction run = s.stop) ∨ (run = 1 ∧ s.runAction run = s.prepare) ∨
      (2 ≤ run ∧ 0 < s.activeVoices ∧ s.runAction run = s.begin) ∨
      (2 ≤ run ∧ s.activeVoices = 0 ∧ s.runAction run = s) := by
  unfold State.runAction
  by_cases h0 : run = 0
  · simp [h0]
  · by_cases h1 : run = 1
    · simp [h1]
    · by_cases ha : 0 < s.activeVoices
      · exact .inr (.inr (.inl ⟨by omega, ha, by rw [if_neg h0, if_neg h1, if_pos ha]⟩))
      · exact .inr (.inr (.inr ⟨by omega, by omega, by rw [if_neg h0, if_neg h1, if_neg ha]⟩))

/-- A voice after prepare (`70_reset_and_hazards.md` R403). -/
@[simp] theorem State.prepare_voice (s : State) (v : Fin 32) :
    s.prepare.voice v = (s.voice v).prepared (Config.drawWavePos s.draws v) := by
  exact Vector.getElem_ofFn (n := 32) v.isLt
    (f := fun u => (s.voice u).prepared (Config.drawWavePos s.draws u))

end Sys2Proof.Machine
end

