-- ==== Sys2Proof/Laws/Track.lean ====
section
/-! SUPPORT. The advance of a control track: its flags bit by bit, where a track goes in each of the cases
of `40_track_advance.md` R132 to R138, and all that an advance can write. -/

namespace Sys2Proof.Machine

/-! ### Flags -/

theorem Track.disabled_eq_false {t : Track} (h : t.state &&& 0x03#7 = 0) : t.disabled = false := by
  simpa [Track.disabled] using h

theorem Track.disabled_eq_true {t : Track} (h : t.state &&& 0x03#7 ≠ 0) : t.disabled = true := by
  simpa [Track.disabled] using h

theorem Track.bit16_eq (t : Track) : t.bit16 = t.state.getLsbD 2 :=
  (by decide +kernel : ∀ f : TrackFlags, (f &&& 0x04#7 != 0) = f.getLsbD 2) t.state

theorem Track.loops_eq (t : Track) : t.loops = t.state.getLsbD 3 :=
  (by decide +kernel : ∀ f : TrackFlags, (f &&& 0x08#7 != 0) = f.getLsbD 3) t.state

theorem Track.bidirectional_eq (t : Track) : t.bidirectional = t.state.getLsbD 4 :=
  (by decide +kernel : ∀ f : TrackFlags, (f &&& 0x10#7 != 0) = f.getLsbD 4) t.state

theorem Track.raisesIrq_eq (t : Track) : t.raisesIrq = t.state.getLsbD 5 :=
  (by decide +kernel : ∀ f : TrackFlags, (f &&& 0x20#7 != 0) = f.getLsbD 5) t.state

theorem Track.decreasing_eq (t : Track) : t.decreasing = t.state.getLsbD 6 :=
  (by decide +kernel : ∀ f : TrackFlags, (f &&& 0x40#7 != 0) = f.getLsbD 6) t.state

/-- The direction after a turn. -/
theorem decreasing_turnedFlags (t : Track) :
    ({ t with state := turnedFlags t } : Track).decreasing =
      if t.bidirectional then !t.decreasing else t.decreasing := by
  rw [Track.decreasing_eq, Track.decreasing_eq, turnedFlags]
  split
  · exact (by decide +kernel : ∀ f : TrackFlags, (f ^^^ 0x40#7).getLsbD 6 = !f.getLsbD 6) t.state
  · rfl

/-! ### Positions -/

/-- A computed position is stored exactly if it is an `s32`. -/
theorem storeS32_of_toInt {x : Int} {p : S32} (h : p.toInt = x) : storeS32 x = .ok p := by
  have h1 := p.le_toInt
  have h2 := p.toInt_le
  subst h
  simp [storeS32, fitsS32, h1, h2]

/-- What is stored is the computed position. -/
theorem toInt_of_storeS32 {x : Int} {p : S32} (h : storeS32 x = .ok p) : p.toInt = x := by
  unfold storeS32 fitsS32 at h
  split at h
  · rename_i hx
    simp only [Bool.and_eq_true, decide_eq_true_eq] at hx
    cases h
    exact S32.toInt_ofInt hx.1 hx.2
  · cases h

/-- A computed position is turned down exactly if it is no `s32` (`00_scope.md` R13). -/
theorem storeS32_eq_error {x : Int} {e : Fault} :
    storeS32 x = .error e ↔ e = .trackOverflow ∧ (x < -2147483648 ∨ 2147483647 < x) := by
  unfold storeS32 fitsS32
  split
  · rename_i h
    simp only [Bool.and_eq_true, decide_eq_true_eq] at h
    simp only [reduceCtorEq, false_iff]
    omega
  · rename_i h
    simp only [Bool.and_eq_true, decide_eq_true_eq] at h
    simp only [Except.error.injEq, eq_comm (a := Fault.trackOverflow)]
    exact ⟨fun he => ⟨he, by omega⟩, And.left⟩

/-! ### Where a track goes -/

/-- R134: short of the boundary. -/
theorem Track.next_of_remaining_neg {t : Track} {p : S32} (hp : p.toInt = t.stepped)
    (hr : t.remaining < 0) (suppress : Bool) : t.next suppress = .ok { t with pos := p } := by
  simp [Track.next, storeS32_of_toInt hp, hr]

/-- R136: past the boundary under rollover. -/
theorem Track.next_of_suppress {t : Track} {p : S32} (hp : p.toInt = t.stepped) :
    t.next true = .ok { t with pos := p } := by
  simp [Track.next, storeS32_of_toInt hp]

/-- R137: the stop. -/
theorem Track.next_of_stop {t : Track} {p : S32} (hp : p.toInt = t.stepped) (hr : 0 ≤ t.remaining)
    (hl : t.loops = false) : t.next false = .ok t.stopped := by
  simp [Track.next, storeS32_of_toInt hp, hl, Int.not_lt.mpr hr]

/-- R138: the loop. -/
theorem Track.next_of_loop {t : Track} {p q : S32} (hp : p.toInt = t.stepped) (hr : 0 ≤ t.remaining)
    (hl : t.loops = true) (hq : q.toInt = t.wrapped (turnedFlags t)) :
    t.next false = .ok { t with pos := q, state := turnedFlags t } := by
  simp [Track.next, Track.moved, storeS32_of_toInt hp, storeS32_of_toInt hq, hl, Int.not_lt.mpr hr]

/-- When a move faults: the stepped position, or the one it would loop to, is no `s32` (log 13). -/
theorem Track.next_eq_error {t : Track} {suppress : Bool} {e : Fault} :
    t.next suppress = .error e ↔ storeS32 t.stepped = .error e ∨
      ((∃ p, storeS32 t.stepped = .ok p) ∧ 0 ≤ t.remaining ∧ suppress = false ∧ t.loops = true ∧
        storeS32 (t.wrapped (turnedFlags t)) = .error e) := by
  unfold Track.next
  split
  · rename_i hs
    simp [hs]
  · rename_i hs
    split
    · rename_i hr
      simp [hs, Int.not_le.mpr hr]
    · rename_i hr
      cases suppress <;> cases hl : t.loops <;> simp [hs, Int.not_lt.mp hr, Track.moved]
      split <;> simp [*]

/-- All that one move of a track can write: the position, and the flags `RESET` and `DECREASING`. -/
theorem Track.next_cases {t t' : Track} {suppress : Bool} (h : t.next suppress = .ok t') :
    t'.start = t.start ∧ t'.endAt = t.endAt ∧ t'.inc = t.inc ∧ t'.rate = t.rate ∧
      (t'.state = t.state ∨ t'.state = t.state ||| 0x01#7 ∨ t'.state = t.state ^^^ 0x40#7) := by
  unfold Track.next at h
  split at h
  · cases h
  · split at h
    · cases h; simp
    · split at h
      · cases h; simp
      · split at h
        · unfold Track.moved at h
          split at h
          · cases h
            simp only [turnedFlags, true_and]
            split <;> simp
          · cases h
        · cases h; simp [Track.stopped, stoppedFlags]

/-! ### The advance -/

/-- R132: a disabled track. -/
theorem State.advance_of_disabled {s : State} {v : Fin 32} {axis : Axis}
    (h : ((s.voice v).track axis).disabled = true) (suppress : Bool) :
    s.advance v axis suppress = .ok (((s.voice v).track axis).pos, s) := by
  simp [State.advance, h]

/-- A running track that moves. -/
theorem State.advance_of_next {s : State} {v : Fin 32} {axis : Axis} {suppress : Bool} {t' : Track}
    (h : ((s.voice v).track axis).disabled = false)
    (hn : ((s.voice v).track axis).next suppress = .ok t') :
    s.advance v axis suppress = .ok (((s.voice v).track axis).pos,
      (s.setVoice v ((s.voice v).setTrack axis t')).setPending axis
        (signalled (s.pending axis) v ((s.voice v).track axis).signals)) := by
  simp [State.advance, h, hn]

/-- A running track that would leave `s32`. -/
theorem State.advance_of_error {s : State} {v : Fin 32} {axis : Axis} {suppress : Bool} {e : Fault}
    (h : ((s.voice v).track axis).disabled = false)
    (hn : ((s.voice v).track axis).next suppress = .error e) :
    s.advance v axis suppress = .error e := by
  simp [State.advance, h, hn]

/-- All that an advance can do: it returns the position before it, and it changes nothing, or one track in
the way of `Track.next_cases` and the voice's bit of one pending mask. -/
theorem State.advance_cases {s t : State} {v : Fin 32} {axis : Axis} {suppress : Bool} {p : S32}
    (h : s.advance v axis suppress = .ok (p, t)) :
    p = ((s.voice v).track axis).pos ∧
      ((((s.voice v).track axis).disabled = true ∧ t = s) ∨
        ∃ t', ((s.voice v).track axis).disabled = false ∧
          ((s.voice v).track axis).next suppress = .ok t' ∧
          t = (s.setVoice v ((s.voice v).setTrack axis t')).setPending axis
            (signalled (s.pending axis) v ((s.voice v).track axis).signals)) := by
  unfold State.advance at h
  cases hd : ((s.voice v).track axis).disabled <;>
    simp only [hd, if_true, Bool.false_eq_true, if_false] at h
  · split at h
    · cases h
    · rename_i t' hn
      cases h
      exact ⟨rfl, .inr ⟨t', rfl, hn, rfl⟩⟩
  · cases h
    exact ⟨rfl, .inl ⟨rfl, rfl⟩⟩

/-- The only fault of an advance. -/
theorem State.advance_error {s : State} {v : Fin 32} {axis : Axis} {suppress : Bool} {e : Fault}
    (h : s.advance v axis suppress = .error e) : e = .trackOverflow := by
  unfold State.advance at h
  simp only at h
  split at h
  · cases h
  · split at h
    · rename_i hn
      cases h
      rcases Track.next_eq_error.mp hn with hx | ⟨-, -, -, -, hx⟩ <;> exact (storeS32_eq_error.mp hx).1
    · cases h

/-- Bits of a pending mask after an advance. -/
theorem getLsbD_signalled (p : Word) (v : Fin 32) (raised : Bool) (k : Nat) :
    (signalled p v raised).getLsbD k = (p.getLsbD k || (k == v.val && raised)) := by
  unfold signalled
  cases raised
  · simp
  · simp only [if_true, BitVec.getLsbD_or, getLsbD_voiceBit]
    by_cases h : k = v.val <;> simp [h]

end Sys2Proof.Machine
end

