-- ==== Sys2Proof/Laws/Seq.lean ====
section
/-! SUPPORT. All that the voice engine can do: one advance, one frame of a voice, a batch, the output stage,
the `SEQ` step (`43_voice_render.md` R194 to R197, `47_output_limiter.md` R342). -/

namespace Sys2Proof.Machine

/-- What the voice engine may write before the output stage: the voices, the two pending masks, the
accumulator and the draw counter. -/
def SeqWrites (s t : State) : Prop :=
  ∃ voices waveState volState acc draws, t = { s with
    voices := voices, waveState := waveState, volState := volState, acc := acc, draws := draws }

theorem SeqWrites.refl (s : State) : SeqWrites s s := ⟨_, _, _, _, _, rfl⟩

theorem SeqWrites.trans {s t u : State} (h : SeqWrites s t) (h' : SeqWrites t u) : SeqWrites s u := by
  obtain ⟨a, b, c, d, e, rfl⟩ := h
  obtain ⟨a', b', c', d', e', rfl⟩ := h'
  exact ⟨a', b', c', d', e', rfl⟩

/-- Nothing of the voices but `v` is written: neither a track nor a pending bit. -/
def OnlyVoice (v : Fin 32) (s t : State) : Prop :=
  ∀ u : Fin 32, u ≠ v → t.voice u = s.voice u ∧
    t.waveState.getLsbD u.val = s.waveState.getLsbD u.val ∧
    t.volState.getLsbD u.val = s.volState.getLsbD u.val

theorem OnlyVoice.refl (v : Fin 32) (s : State) : OnlyVoice v s s := fun _ _ => ⟨rfl, rfl, rfl⟩

theorem OnlyVoice.trans {v : Fin 32} {s t u : State} (h : OnlyVoice v s t) (h' : OnlyVoice v t u) :
    OnlyVoice v s u := fun w hw =>
  ⟨(h' w hw).1.trans (h w hw).1, (h' w hw).2.1.trans (h w hw).2.1, (h' w hw).2.2.trans (h w hw).2.2⟩

/-! ### One advance -/

theorem State.advance_writes {s t : State} {v : Fin 32} {axis : Axis} {suppress : Bool} {p : S32}
    (h : s.advance v axis suppress = .ok (p, t)) : SeqWrites s t := by
  obtain ⟨-, ⟨-, rfl⟩ | ⟨t', -, -, rfl⟩⟩ := State.advance_cases h
  · exact .refl _
  · cases axis <;> exact ⟨_, _, _, _, _, rfl⟩

theorem State.advance_onlyVoice {s t : State} {v : Fin 32} {axis : Axis} {suppress : Bool} {p : S32}
    (h : s.advance v axis suppress = .ok (p, t)) : OnlyVoice v s t := by
  obtain ⟨-, ⟨-, rfl⟩ | ⟨t', -, -, rfl⟩⟩ := State.advance_cases h
  · exact .refl _ _
  · intro u hu
    have hk : ¬ u.val = v.val := fun e => hu (Fin.ext e)
    refine ⟨by simp [State.voice_setVoice_ne _ _ _ _ hu], ?_⟩
    cases axis
    · exact ⟨by rw [State.setPending_wave_waveState, getLsbD_signalled]; simp [hk, State.pending], rfl⟩
    · exact ⟨rfl, by rw [State.setPending_vol_volState, getLsbD_signalled]; simp [hk, State.pending]⟩

/-- An advance keeps a voice sound: it writes no bound, no increment and no rate. -/
theorem State.advance_sound {s t : State} {v : Fin 32} {axis : Axis} {suppress : Bool} {p : S32}
    (h : s.advance v axis suppress = .ok (p, t)) (hs : (s.voice v).Sound) : (t.voice v).Sound := by
  obtain ⟨-, ⟨-, rfl⟩ | ⟨t', -, hn, rfl⟩⟩ := State.advance_cases h
  · exact hs
  · obtain ⟨h1, h2, h3, h4, -⟩ := Track.next_cases hn
    obtain ⟨a, b, c, d, e⟩ := hs
    cases axis <;> simp only [Voice.track] at h1 h2 h3 h4 <;> constructor <;>
      simp [State.voice_setVoice, h1, h2, h3, h4] <;> assumption

/-! ### One frame of a voice -/

/-- All that a frame of a voice can do: nothing, or an advance of its wave track, a draw or none, an advance
of its volume track, and an addition into the frame. -/
theorem State.voiceFrame_cases {s t : State} {v : Fin 32} {f : Nat} (h : s.voiceFrame v f = .ok t) :
    ((s.voice v).silent = true ∧ t = s) ∨
      ∃ p q a b c x, (s.voice v).silent = false ∧
        s.advance v .wave (s.voice v).rollover = .ok (p, a) ∧ (b = a ∨ b = a.drawn) ∧
        b.advance v .vol false = .ok (q, c) ∧ t = c.accumulate f (c.voice v).panPosition x := by
  unfold State.voiceFrame at h
  split at h
  · cases h
    exact .inl ⟨by assumption, rfl⟩
  · rename_i hs
    right
    split at h
    · cases h
    · rename_i sample b hg
      unfold State.getSample at hg
      split at hg
      · cases hg
      · rename_i p a hw
        have hb : b = a ∨ b = a.drawn := by
          simp only [Except.ok.injEq, State.sampleAt] at hg
          split at hg <;> cases hg
          · exact .inr rfl
          · exact .inl rfl
        split at h
        · cases h
        · rename_i gain c hv
          unfold State.popVolScalar at hv
          split at hv
          · cases hv
          · rename_i q c' hv'
            cases hv
            cases h
            exact ⟨p, q, a, b, _, _, by simpa using hs, hw, hb, hv', rfl⟩

theorem State.voiceFrame_writes {s t : State} {v : Fin 32} {f : Nat} (h : s.voiceFrame v f = .ok t) :
    SeqWrites s t := by
  obtain ⟨-, rfl⟩ | ⟨p, q, a, b, c, x, -, h1, h2, h3, rfl⟩ := State.voiceFrame_cases h
  · exact .refl _
  · have hb : SeqWrites a b := by rcases h2 with rfl | rfl <;> exact ⟨_, _, _, _, _, rfl⟩
    exact ((State.advance_writes h1).trans hb).trans
      ((State.advance_writes h3).trans ⟨_, _, _, _, _, rfl⟩)

theorem State.voiceFrame_onlyVoice {s t : State} {v : Fin 32} {f : Nat} (h : s.voiceFrame v f = .ok t) :
    OnlyVoice v s t := by
  obtain ⟨-, rfl⟩ | ⟨p, q, a, b, c, x, -, h1, h2, h3, rfl⟩ := State.voiceFrame_cases h
  · exact .refl _ _
  · have hb : OnlyVoice v a b := by
      rcases h2 with rfl | rfl
      · exact .refl _ _
      · exact fun _ _ => ⟨rfl, rfl, rfl⟩
    exact ((State.advance_onlyVoice h1).trans hb).trans
      ((State.advance_onlyVoice h3).trans fun _ _ => ⟨rfl, rfl, rfl⟩)

theorem State.voiceFrame_sound {s t : State} {v : Fin 32} {f : Nat} (h : s.voiceFrame v f = .ok t)
    (hs : ∀ u, (s.voice u).Sound) : ∀ u, (t.voice u).Sound := by
  intro u
  by_cases hu : u = v
  · subst hu
    obtain ⟨-, rfl⟩ | ⟨p, q, a, b, c, x, -, h1, h2, h3, rfl⟩ := State.voiceFrame_cases h
    · exact hs u
    · have ha := State.advance_sound h1 (hs u)
      have hb : (b.voice u).Sound := by rcases h2 with rfl | rfl <;> exact ha
      exact show (c.voice u).Sound from State.advance_sound h3 hb
  · rw [(State.voiceFrame_onlyVoice h u hu).1]
    exact hs u

/-- The only fault of a frame. -/
theorem State.voiceFrame_error {s : State} {v : Fin 32} {f : Nat} {e : Fault}
    (h : s.voiceFrame v f = .error e) : e = .trackOverflow := by
  unfold State.voiceFrame at h
  split at h
  · cases h
  · split at h
    · rename_i hg
      unfold State.getSample at hg
      split at hg
      · cases h
        cases hg
        exact State.advance_error (by assumption)
      · cases hg
    · split at h
      · rename_i hv
        unfold State.popVolScalar at hv
        split at hv
        · cases h
          cases hv
          exact State.advance_error (by assumption)
        · cases hv
      · cases h

/-! ### Batches -/

/-- A property of every frame of a voice that composes is one of a batch. -/
theorem State.voiceBatch_induction {v : Fin 32} {R : State → State → Prop} (refl : ∀ s, R s s)
    (trans : ∀ {s t u}, R s t → R t u → R s u)
    (frame : ∀ {s t f}, State.voiceFrame s v f = .ok t → R s t) :
    ∀ {n : Nat} {s t : State}, s.voiceBatch v n = .ok t → R s t
  | 0, s, t, h => by cases h; exact refl s
  | n + 1, s, t, h => by
    unfold State.voiceBatch at h
    split at h
    · cases h
    · exact trans (State.voiceBatch_induction refl trans frame (by assumption)) (frame h)

theorem State.voiceBatch_error {v : Fin 32} {e : Fault} : ∀ {n : Nat} {s : State},
    s.voiceBatch v n = .error e → e = .trackOverflow
  | 0, s, h => by cases h
  | n + 1, s, h => by
    unfold State.voiceBatch at h
    split at h
    · cases h
      exact State.voiceBatch_error (by assumption)
    · exact State.voiceFrame_error h

/-- A property of every batch of a voice below `k` that composes is one of the batch of all. -/
theorem State.voicesBatch_induction {n : Nat} {R : State → State → Prop} (refl : ∀ s, R s s)
    (trans : ∀ {s t u}, R s t → R t u → R s u) :
    ∀ {k : Nat} {s t : State},
      (∀ {v : Fin 32} {s t}, v.val < k → State.voiceBatch s v n = .ok t → R s t) →
      s.voicesBatch n k = .ok t → R s t
  | 0, s, t, _, h => by cases h; exact refl s
  | k + 1, s, t, batch, h => by
    unfold State.voicesBatch at h
    split at h
    · cases h
    · rename_i u hu
      have h1 : R s u := State.voicesBatch_induction refl trans
        (fun hv => batch (Nat.lt_succ_of_lt hv)) hu
      split at h
      · exact trans h1 (batch (by simp) h)
      · cases h
        exact h1

theorem State.voicesBatch_error {n : Nat} {e : Fault} : ∀ {k : Nat} {s : State},
    s.voicesBatch n k = .error e → e = .trackOverflow
  | 0, s, h => by cases h
  | k + 1, s, h => by
    unfold State.voicesBatch at h
    split at h
    · cases h
      exact State.voicesBatch_error (by assumption)
    · split at h
      · exact State.voiceBatch_error h
      · cases h

theorem State.voicesBatch_writes {n k : Nat} {s t : State} (h : s.voicesBatch n k = .ok t) :
    SeqWrites s t :=
  State.voicesBatch_induction SeqWrites.refl SeqWrites.trans
    (fun _ hb => State.voiceBatch_induction SeqWrites.refl SeqWrites.trans State.voiceFrame_writes hb) h

theorem State.voicesBatch_sound {n k : Nat} {s t : State} (h : s.voicesBatch n k = .ok t)
    (hs : ∀ u, (s.voice u).Sound) : ∀ u, (t.voice u).Sound :=
  State.voicesBatch_induction (R := fun s t => (∀ u, (s.voice u).Sound) → ∀ u, (t.voice u).Sound)
    (fun _ h => h) (fun h h' hs => h' (h hs))
    (fun _ hb => State.voiceBatch_induction
      (R := fun s t => (∀ u, (s.voice u).Sound) → ∀ u, (t.voice u).Sound)
      (fun _ h => h) (fun h h' hs => h' (h hs)) State.voiceFrame_sound hb) h hs

/-- A voice that is not rendered keeps its tracks and its pending bits. -/
theorem State.voicesBatch_other {n k : Nat} {s t : State} (h : s.voicesBatch n k = .ok t) {u : Fin 32}
    (hu : k ≤ u.val) : t.voice u = s.voice u ∧
      t.waveState.getLsbD u.val = s.waveState.getLsbD u.val ∧
      t.volState.getLsbD u.val = s.volState.getLsbD u.val :=
  State.voicesBatch_induction
    (R := fun s t => t.voice u = s.voice u ∧ t.waveState.getLsbD u.val = s.waveState.getLsbD u.val ∧
      t.volState.getLsbD u.val = s.volState.getLsbD u.val)
    (fun _ => ⟨rfl, rfl, rfl⟩)
    (fun h h' => ⟨h'.1.trans h.1, h'.2.1.trans h.2.1, h'.2.2.trans h.2.2⟩)
    (fun {v} _ _ hv hb => State.voiceBatch_induction (OnlyVoice.refl v) OnlyVoice.trans
      State.voiceFrame_onlyVoice hb u (fun e => by subst e; omega)) h

/-- The inner loop of `43_voice_render.md` R196. -/
theorem State.voiceBatch_eq_foldlM (s : State) (v : Fin 32) : ∀ n,
    s.voiceBatch v n = (List.range n).foldlM (fun (t : State) f => t.voiceFrame v f) s
  | 0 => rfl
  | n + 1 => by
    rw [List.range_succ, List.foldlM_append, ← State.voiceBatch_eq_foldlM s v n, State.voiceBatch]
    cases s.voiceBatch v n with
    | error e => rfl
    | ok t =>
      simp only [bind, Except.bind, pure, Except.pure, List.foldlM_cons, List.foldlM_nil]
      cases t.voiceFrame v n <;> rfl

/-! ### The output stage and the step -/

/-- All that the output stage can write. -/
theorem State.output_eq (s : State) : s.output = { s with
    acc := [], peakLeft := s.output.peakLeft, peakRight := s.output.peakRight, out := s.output.out } := by
  unfold State.output
  simp only
  split <;> rfl

/-- All that a `SEQ` step can do. -/
theorem seqStep_cases {n : Nat} {s t : State} (h : seqStep n s = .next t) :
    (s.outputEnabled = false ∧ t = s) ∨
      ∃ u, s.outputEnabled = true ∧
        ({ s with acc := List.replicate n ⟨.zero, .zero⟩ } : State).voicesBatch n s.activeVoices = .ok u ∧
        t = u.output.checkVoiceIrq := by
  unfold seqStep at h
  split at h
  · split at h
    · cases h
    · rename_i ho _ u hu
      cases h
      exact .inr ⟨u, ho, hu, rfl⟩
  · rename_i ho
    cases h
    exact .inl ⟨by simpa using ho, rfl⟩

/-- A `SEQ` step does not refuse, and faults only by a track overflow. -/
theorem seqStep_stops {n : Nat} {s : State} :
    (∀ e, seqStep n s = .fault e → e = .trackOverflow) ∧ ∀ e, seqStep n s ≠ .refused e := by
  unfold seqStep
  constructor <;> intro e h <;> split at h
  · split at h
    · cases h
      exact State.voicesBatch_error (by assumption)
    · cases h
  · cases h
  · split at h <;> cases h
  · cases h

end Sys2Proof.Machine
end

