-- ==== Sys2Proof/Laws/Values.lean ====
section
/-! SUPPORT. What the operand conversions and the sample values can be: the integer helpers of
`00_scope.md` R12, field values, samples, peaks and the output stage's narrowing. -/

namespace Sys2Proof.Machine

/-- `ceil_div(a, b)` is the least integer `q` with `q * b >= a` (`00_scope.md` R12). -/
theorem ceilDiv_spec {a b : Int} (hb : 0 < b) : a ≤ ceilDiv a b * b ∧ (ceilDiv a b - 1) * b < a := by
  have h1 := Int.mul_ediv_add_emod (-a) b
  have h2 := Int.emod_nonneg (-a) (ne_of_gt hb)
  have h3 := Int.emod_lt_of_pos (-a) hb
  unfold ceilDiv
  constructor <;> nlinarith

/-- A clamp lies within its bounds. -/
theorem clamp_bounds {v lo hi : Int} (h : lo ≤ hi) : lo ≤ clamp v lo hi ∧ clamp v lo hi ≤ hi := by
  unfold clamp
  split
  · omega
  · split <;> omega

/-- A clamp changes nothing within its bounds. -/
theorem clamp_of_mem {v lo hi : Int} (h1 : lo ≤ v) (h2 : v ≤ hi) : clamp v lo hi = v := by
  unfold clamp
  rw [if_neg (by omega), if_neg (by omega)]

theorem toNat_dataByte (d : Half) : (dataByte d).toNat = d.toNat / 256 := by
  have := d.isLt
  simp [dataByte, highByte, BitVec.extractLsb'_toNat, Nat.shiftRight_eq_div_pow]
  omega

theorem getLsbD_dataByte (d : Half) {k : Nat} (h : k < 8) : (dataByte d).getLsbD k = d.getLsbD (8 + k) := by
  simp [dataByte, highByte, h]

theorem toNat_byteOf (v : Half) : (byteOf v).toNat = v.toNat % 256 := by
  simp [byteOf, lowByte, BitVec.extractLsb'_toNat]

theorem getLsbD_byteOf (v : Half) {k : Nat} (h : k < 8) : (byteOf v).getLsbD k = v.getLsbD k := by
  simp [byteOf, lowByte, h]

/-- The voice count of a write is 14 to 32 (`45_global_registers.md` R280). -/
theorem requestedVoices_bounds (d : Half) : 14 ≤ requestedVoices d ∧ requestedVoices d ≤ 32 := by
  have := clamp_bounds (v := 1 + ((d.extractLsb' 8 5).toNat : Int)) (lo := 14) (hi := 32) (by decide)
  unfold requestedVoices Config.minActive Config.maxActive
  constructor <;> push_cast <;> omega

/-- The field of a volume bound byte (`44_voice_registers.md` R218). -/
theorem toInt_volBound (b : Byte) : (volBound b).toInt = (b.toNat * 16 * 512 : Nat) := by
  have := b.isLt
  rw [volBound, S32.toInt_ofInt] <;> rw [Nat.shiftLeft_eq] <;> omega

/-- The increment of a wave rate (`44_voice_registers.md` R212). -/
theorem toInt_waveIncrement (d : Half) : (waveIncrement d).toInt = ((d.toNat + 1) / 2 : Nat) := by
  have := d.isLt
  rw [waveIncrement, S32.toInt_ofInt] <;> unfold ceilDiv <;> omega

/-- The index of a volume position is one of the table (`42_volume.md` R173). -/
theorem volIndex_lt (p : S32) : volIndex p < 4096 := by
  have := clamp_bounds (v := ceilDiv p.toInt 512) (lo := 0) (hi := 4095) (by decide)
  unfold volIndex
  omega

/-- A sample lies within 16 bits (`41_sample_fetch.md` R151, R152). -/
theorem State.readSample_bounds (s : State) (t : Track) (a : Nat) :
    -32768 ≤ s.readSample t a ∧ s.readSample t a ≤ 32767 := by
  have hh : ∀ h : Half, -32768 ≤ h.toInt ∧ h.toInt ≤ 32767 := fun h => by
    have h1 := BitVec.le_toInt h
    have h2 := BitVec.toInt_lt (x := h)
    constructor <;> simp at * <;> omega
  have hb : ∀ b : Byte, -32768 ≤ b.toInt * 256 ∧ b.toInt * 256 ≤ 32767 := fun b => by
    have h1 := BitVec.le_toInt b
    have h2 := BitVec.toInt_lt (x := b)
    constructor <;> simp at * <;> omega
  unfold State.readSample
  split
  · exact hh _
  · exact hb _

/-- The peak after an attack is at least the peak before and every magnitude (`47_output_limiter.md`
R342). -/
theorem le_attack : ∀ (xs : List Exact) (peak : Exact),
    peak.toReal ≤ (attack peak xs).toReal ∧ ∀ x ∈ xs, |x.toReal| ≤ (attack peak xs).toReal
  | [], peak => by simp [attack]
  | y :: ys, peak => by
    obtain ⟨h1, h2⟩ := le_attack ys (peak.max y.abs)
    rw [Exact.toReal_max, Exact.toReal_abs] at h1
    refine ⟨le_trans le_sup_left h1, fun x hx => ?_⟩
    rcases List.mem_cons.mp hx with rfl | hx
    · exact le_trans le_sup_right h1
    · exact h2 x hx

/-- The peak after an attack is the peak before or a magnitude of the batch. -/
theorem attack_mem : ∀ (xs : List Exact) (peak : Exact),
    attack peak xs = peak ∨ ∃ x ∈ xs, attack peak xs = x.abs
  | [], peak => .inl rfl
  | y :: ys, peak => by
    rcases attack_mem ys (peak.max y.abs) with h | ⟨x, hx, h⟩
    · by_cases e : peak.lt y.abs = true
      · exact .inr ⟨y, by simp, by rw [attack, h, Exact.max, if_pos e]⟩
      · exact .inl (by rw [attack, h, Exact.max, if_neg e])
    · exact .inr ⟨x, by simp [hx], h⟩

/-- A peak is above full scale as a real number. -/
@[simp] theorem overFullScale_iff (peak : Exact) : overFullScale peak = true ↔ 32767 < peak.toReal := by
  simp [overFullScale, Config.fullScale]

/-- The peak after an attack, as a real number. -/
theorem toReal_attack : ∀ (xs : List Exact) (peak : Exact),
    (attack peak xs).toReal = (xs.map fun x => |x.toReal|).foldl max peak.toReal
  | [], _ => rfl
  | x :: xs, peak => by
    rw [attack, toReal_attack xs, Exact.toReal_max, Exact.toReal_abs]
    rfl

/-- All that a release can do, under exact numerics (`47_output_limiter.md` R342, part 4). -/
theorem toReal_released {p : Params} (h : p.numerics = .exact) (peak : Exact) :
    (released p peak).toReal =
      if peak.toReal ≤ 32767 then peak.toReal else peak.toReal - p.release := by
  unfold released roundExact
  rw [h]
  by_cases ho : overFullScale peak = true
  · rw [if_pos ho, if_neg (not_le.2 ((overFullScale_iff peak).1 ho))]
    exact Exact.toReal_sub _ _
  · rw [if_neg ho, if_pos (not_lt.1 fun hc => ho ((overFullScale_iff peak).2 hc))]

/-! ### Narrowing -/

theorem abs_truncate_le {x : ℝ} (h : |x| ≤ 32767) : |truncate x| ≤ 32767 := by
  rw [abs_le] at *
  unfold truncate
  split
  · exact ⟨Int.le_ceil_iff.2 (by push_cast; linarith), Int.ceil_le.2 (by push_cast; linarith)⟩
  · exact ⟨Int.le_floor.2 (by push_cast; linarith), Int.floor_le_iff.2 (by push_cast; linarith)⟩

theorem toInt_ofInt_of_abs_le {n : Int} (h : |n| ≤ 32767) : (BitVec.ofInt 16 n).toInt = n := by
  rw [abs_le] at h
  rw [BitVec.toInt_ofInt, Int.bmod_eq_of_le] <;> simp <;> omega

/-- A narrowed quotient of at most full scale is the quotient truncated toward zero. -/
theorem toInt_narrowExact {x y : Exact} (hy : 0 < y.toReal) (h : |x.toReal / y.toReal| ≤ 32767) :
    (narrowExact x y).toInt = truncate (x.toReal / y.toReal) := by
  have hx : |x.toReal| < 32768 * y.toReal := by
    rw [abs_div, abs_of_pos hy, div_le_iff₀ hy] at h
    nlinarith
  rw [narrowExact, truncQuotient_eq hy hx, toInt_ofInt_of_abs_le (abs_truncate_le h)]

/-- An implementation's narrowing stays within full scale (log 17). -/
theorem abs_toInt_narrowRounded_le (x : Exact) : |(narrowRounded x).toInt| ≤ 32767 := by
  have := clamp_bounds (v := Config.numNarrow x) (lo := -32767) (hi := 32767) (by decide)
  rw [narrowRounded, toInt_ofInt_of_abs_le (abs_le.2 this)]
  exact abs_le.2 this

/-- The direct path under exact numerics (`47_output_limiter.md` R342, part 2). -/
theorem toInt_direct {x : Exact} (h : |x.toReal| ≤ 32767) :
    (direct .exact x).toInt = truncate x.toReal := by
  simpa [direct] using toInt_narrowExact (x := x) (y := .ofRat 1) (by simp) (by simpa using h)

/-- The limited path under exact numerics (`47_output_limiter.md` R342, part 3). -/
theorem toInt_limited {x peak : Exact} (h : |x.toReal| ≤ peak.toReal) :
    |x.toReal * min 1 (32767 / peak.toReal)| ≤ 32767 ∧
      (limited .exact peak x).toInt = truncate (x.toReal * min 1 (32767 / peak.toReal)) := by
  unfold limited
  simp only
  by_cases ho : overFullScale peak = true
  · rw [if_pos ho]
    rw [overFullScale_iff] at ho
    have hp : 0 < peak.toReal := by linarith
    rw [min_eq_right ((div_le_one hp).2 ho.le)]
    have e : (x.scale (Config.fullScale : Nat)).toReal / peak.toReal = x.toReal * (32767 / peak.toReal) := by
      simp [Config.fullScale]
      ring
    have hb : |x.toReal * (32767 / peak.toReal)| ≤ 32767 := by
      rw [abs_mul, abs_div, abs_of_pos hp, mul_div_assoc', div_le_iff₀ hp]
      norm_num
      linarith
    refine ⟨hb, ?_⟩
    rw [← e] at hb ⊢
    exact toInt_narrowExact hp hb
  · rw [if_neg ho]
    rw [overFullScale_iff, not_lt] at ho
    have e : x.toReal * min 1 (32767 / peak.toReal) = x.toReal := by
      rcases eq_or_lt_of_le ((abs_nonneg _).trans h) with h0 | h0
      · rw [← h0] at h
        simp [abs_eq_zero.1 (le_antisymm h (abs_nonneg _))]
      · rw [min_eq_left ((one_le_div h0).2 ho), mul_one]
    rw [e]
    exact ⟨h.trans ho, toInt_direct (h.trans ho)⟩

/-! ### The volume table -/

/-- An entry between silence and full scale under exact numerics (`42_volume.md` R176). -/
theorem toReal_volEntry {p : Params} (h : p.numerics = .exact) (hr : 1 < p.ratio) {i : Nat} (hi : 1 ≤ i)
    (hi' : i ≤ 4095) : (volEntry p i).toReal = (p.ratio ^ (4095 - i))⁻¹ := by
  unfold volEntry roundExact
  rw [if_neg (by omega)]
  split
  · obtain rfl : i = 4095 := by omega
    simp
  · rw [h]
    exact RealParam.toReal_inversePower (u := .volStepRatio) (zero_lt_one.trans hr) _

/-! ### Samples -/

/-- The free sample of a negative position is in the 16-bit range (`41_sample_fetch.md` R155). -/
theorem freeSample_bounds (n : Nat) : -32768 ≤ (freeSample n).toReal ∧ (freeSample n).toReal ≤ 32767 := by
  simpa [freeSample, OpenReal.inRange] using Config.openValue_spec.1 (.sample n)

/-- The two outcomes of a fetch (`41_sample_fetch.md` R154, R155). -/
theorem State.sampleAt_cases (s : State) (v : Fin 32) (p : S32) :
    (p.toInt < 0 ∧ s.sampleAt v p = (freeSample s.draws, s.drawn)) ∨
      (0 ≤ p.toInt ∧ s.sampleAt v p = (s.interp (s.voice v).wave p.toInt.toNat, s)) := by
  unfold State.sampleAt
  by_cases h : p.toInt < 0
  · exact .inl ⟨h, if_pos h⟩
  · exact .inr ⟨not_lt.1 h, if_neg h⟩

/-- An addition into a frame, under exact numerics (`43_voice_render.md` R194). -/
theorem Frame.isSum_add (a : Frame) {q : Params} (h : q.numerics = .exact) (pos : Fin 16) (x : Exact) :
    (a.add q pos x).IsSum a q pos x.toReal := by
  unfold Frame.add Frame.IsSum roundExact
  rw [h]
  simp [mul_comm]

end Sys2Proof.Machine
end

