-- ==== Sys2Proof/Tests/Slice0.lean ====
section
/-! SUPPORT. Small tests: ill-formed terms that the checks refuse, words written out from
`30_encoding.md`, one step of each command on the vectors `V<n>` of `95_test_vectors.md`, and for each
statement with hypotheses a state and operands that meet them. -/

open Sys2Proof Sys2Proof.Machine

namespace Sys2Proof.Tests

-- One test after the other: each evaluation by the kernel would else wait in a thread of its own.
set_option Elab.async false

/-! ### What the checks refuse -/

/-- An 8-bit port write with a value above `0xFF` (`30_encoding.md` R92). -/
theorem test_wide_value_of_narrow_write_is_ill_formed :
    [Instr.outbMixCtrl 0x0100#16, .outbAdlibCmd 0x0100#16, .outbTimerCmd 0x8000#16,
      .outbChanSelect 0x0100#16, .outbVoiceIndex 0x0100#16, .outbRegSelect 0x0100#16,
      .outbRegDataLo 0x0100#16, .outbRegDataHi 0x0100#16, .outbDramData 0xFFFF#16].all
        (fun i => !i.wellFormed) = true := by decide

theorem test_boundary_value_of_narrow_write_is_well_formed :
    Instr.wellFormed (.outbMixCtrl 0x00FF#16) = true ∧ Instr.wellFormed (.outwRegData 0xFFFF#16) = true ∧
      Instr.wellFormed (.pan 0xFFFF#16) = true := by decide

theorem test_ill_formed_transactions :
    Transaction.wellFormed ⟨true, false, 0x302, 0x0100#16⟩ = false ∧
      Transaction.wellFormed ⟨false, false, 0x302, 1#16⟩ = false ∧
      Transaction.wellFormed ⟨false, true, 0x304, 1#16⟩ = false := by decide

theorem test_ill_formed_configurations :
    Params.wellFormed { Config.defaultParams with addr16LowerBits := 21 } = false ∧
      Params.wellFormed { Config.defaultParams with volStepRatio := .rational 1 } = false ∧
      Params.wellFormed { Config.defaultParams with limitRelease := .rational 0 } = false ∧
      Params.wellFormed { Config.defaultParams with
        volStepRatio := .unknown 0, limitRelease := .unknown 1 } = true ∧
      Params.wellFormed Config.defaultParams = true := by decide +kernel

/-- What is no row of the table is rejected by name. -/
theorem test_rejected_words :
    decode (tableBytes 32 0x02010000) = .error .unlistedRead8 ∧
      decode (tableBytes 32 0x82010055) = .error .unlistedWrite ∧
      decode (tableBytes 32 0x43020000) = .error .wideAccess ∧
      decode (tableBytes 32 0x42000000) = .error .wideAccess ∧
      decode (tableBytes 32 0x42010000) = .error .unlistedRead16 ∧
      decode (tableBytes 32 0x93020000) = .error .malformed ∧
      decode (tableBytes 32 0x83020100) = .error .malformed ∧
      decode (tableBytes 32 0x03020001) = .error .malformed ∧
      decode (tableBytes 24 0x480000) = .error .unknownRegisterWrite ∧
      decode (tableBytes 8 0x8E) = .error .unknownRegisterRead ∧
      decode [] = .error .malformed ∧ decode (tableBytes 16 0x8302) = .error .malformed := by decide

/-! ### Words written out from the spec's encodings: every constructor -/

/-- Bus transactions, `30_encoding.md` R90, R92: bit 31 `dir`, bit 30 `w16`, bits 27:16 the offset. -/
theorem test_decode_bus_words :
    decodeTableWord 32 0x8200004B = some (.outbMixCtrl 0x4B#16) ∧
    decodeTableWord 32 0x02060000 = some .inbIrqStatus ∧
    decodeTableWord 32 0x02080000 = some .inbTimerStatus ∧
    decodeTableWord 32 0x82080004 = some (.outbAdlibCmd 0x04#16) ∧
    decodeTableWord 32 0x82090080 = some (.outbTimerCmd 0x80#16) ∧
    decodeTableWord 32 0x020A0000 = some .inbAdlibCmdRb ∧
    decodeTableWord 32 0x820B0005 = some (.outbChanSelect 0x05#16) ∧
    decodeTableWord 32 0x830200E9 = some (.outbVoiceIndex 0xE9#16) ∧
    decodeTableWord 32 0x03020000 = some .inbVoiceIndex ∧
    decodeTableWord 32 0x8303000B = some (.outbRegSelect 0x0B#16) ∧
    decodeTableWord 32 0x03030000 = some .inbRegSelect ∧
    decodeTableWord 32 0x83040034 = some (.outbRegDataLo 0x34#16) ∧
    decodeTableWord 32 0xC3041234 = some (.outwRegData 0x1234#16) ∧
    decodeTableWord 32 0x830500CF = some (.outbRegDataHi 0xCF#16) ∧
    decodeTableWord 32 0x03040000 = some .inbRegDataLo ∧
    decodeTableWord 32 0x43040000 = some .inwRegData ∧
    decodeTableWord 32 0x03050000 = some .inbRegDataHi ∧
    decodeTableWord 32 0x03070000 = some .inbDramData ∧
    decodeTableWord 32 0x830700AB = some (.outbDramData 0xAB#16) := by decide

/-- Voice register writes, `30_encoding.md` R96, R97: the id in bits 23:16, the data below. -/
theorem test_decode_voice_write_words :
    decodeTableWord 24 0x002800 = some (.waveCtrl 0x2800#16) ∧
    decodeTableWord 24 0x010400 = some (.waveRate 0x0400#16) ∧
    decodeTableWord 24 0x020246 = some (.waveStartMsw 0x0246#16) ∧
    decodeTableWord 24 0x038A00 = some (.waveStartLsw 0x8A00#16) ∧
    decodeTableWord 24 0x040002 = some (.waveEndMsw 0x0002#16) ∧
    decodeTableWord 24 0x050600 = some (.waveEndLsw 0x0600#16) ∧
    decodeTableWord 24 0x063F00 = some (.volRate 0x3F00#16) ∧
    decodeTableWord 24 0x071000 = some (.volStart 0x1000#16) ∧
    decodeTableWord 24 0x08FF00 = some (.volEnd 0xFF00#16) ∧
    decodeTableWord 24 0x09FFF0 = some (.volCurrent 0xFFF0#16) ∧
    decodeTableWord 24 0x0A000A = some (.wavePosMsw 0x000A#16) ∧
    decodeTableWord 24 0x0B0800 = some (.wavePosLsw 0x0800#16) ∧
    decodeTableWord 24 0x0C0700 = some (.pan 0x0700#16) ∧
    decodeTableWord 24 0x0D0700 = some (.volCtrl 0x0700#16) := by decide

/-- Global register writes. -/
theorem test_decode_global_write_words :
    decodeTableWord 24 0x0ECF00 = some (.activeVoices 0xCF00#16) ∧
    decodeTableWord 24 0x41A100 = some (.dmaCtrl 0xA100#16) ∧
    decodeTableWord 24 0x42BEEF = some (.dmaAddr 0xBEEF#16) ∧
    decodeTableWord 24 0x432345 = some (.dramAddrA 0x2345#16) ∧
    decodeTableWord 24 0x440100 = some (.dramAddrB 0x0100#16) ∧
    decodeTableWord 24 0x450400 = some (.timerCtrl 0x0400#16) ∧
    decodeTableWord 24 0x46F000 = some (.timer1Value 0xF000#16) ∧
    decodeTableWord 24 0x47F000 = some (.timer2Value 0xF000#16) ∧
    decodeTableWord 24 0x490100 = some (.sampleCtrl 0x0100#16) ∧
    decodeTableWord 24 0x4C0700 = some (.runtimeCtrl 0x0700#16) := by decide

/-- Register reads: the id alone. -/
theorem test_decode_read_words :
    [0x41, 0x42, 0x45, 0x49, 0x80, 0x81, 0x82, 0x83, 0x84, 0x85, 0x86, 0x87, 0x88, 0x89, 0x8A, 0x8B, 0x8C,
      0x8D, 0x8F].map (decodeTableWord 8) =
    [some Instr.rdDmaCtrl, some .rdDmaAddr, some .rdTimerCtrl, some .rdSampleCtrl, some .rdWaveCtrl,
      some .rdWaveRate, some .rdWaveStartMsw, some .rdWaveStartLsw, some .rdWaveEndMsw,
      some .rdWaveEndLsw, some .rdVolRate, some .rdVolStart, some .rdVolEnd, some .rdVolCurrent,
      some .rdWavePosMsw, some .rdWavePosLsw, some .rdPan, some .rdVolCtrl, some .rdVoiceIrq] := by
  decide

/-- The table's words run as the first command after reset. -/
theorem test_fetched_words_run :
    step (State.reset.withFetchWord 24 0x0ECF00) = exec (.activeVoices 0xCF00#16) State.reset ∧
      step (State.reset.withFetchWord 32 0x830200E9) = exec (.outbVoiceIndex 0xE9#16) State.reset ∧
      step (State.reset.withFetchWord 8 0x8F) = exec .rdVoiceIrq State.reset := ⟨rfl, rfl, rfl⟩

/-! ### One step of each command -/

/-- A field of the state after a command, if the command completes. -/
def after {α : Type} (i : Instr) (s : State) (f : State → α) : Option α :=
  match exec i s with
  | .next t => some (f t)
  | _ => none

/-- What a command delivers. -/
def reads (i : Instr) (s : State) : Option Reply := after i s State.reply

/-- Sixteen voices active, voice 4 selected, output and voice IRQs enabled, the line enabled. -/
def playing : State :=
  { State.reset with
    activeVoices := 16, activeVoiceMask := 0xFFFF#32, voiceIndex := 4, voiceSelected := true
    outputEnabled := true, irqEnabled := true }

/-- `playing` with another wave track in voice 4. -/
def waving (t : Track) : State := playing.setCurWave t

/-- `playing` with another volume track in voice 4. -/
def ramping (t : Track) : State := playing.setCurVol t

/-- A track by the values of its fields. -/
def track (start endAt pos inc : Int) (state : TrackFlags) : Track :=
  ⟨S32.ofInt start, S32.ofInt endAt, S32.ofInt pos, S32.ofInt inc, 0, state⟩

/-- V58, V59: one mixer write arms one channel select. -/
theorem test_mix_ctrl_arms_chan_select :
    after (.outbMixCtrl 0x4B#16) playing (fun t => (t.mixCtrl, t.shouldApply)) = some (0x4B#8, true) ∧
    after (.outbChanSelect 5#16) { playing with mixCtrl := 0x4B#8, shouldApply := true }
      (fun t => (t.irqNumber, t.dmaChannel, t.shouldApply)) = some (11, 1, false) ∧
    after (.outbChanSelect 3#16) { playing with shouldApply := true }
      (fun t => (t.irqNumber, t.dmaChannel, t.shouldApply)) = some (5, 5, false) := by decide +kernel

/-- V59a, and a select that is not armed. -/
theorem test_chan_select_none_and_unarmed :
    after (.outbChanSelect 0#16) { playing with shouldApply := true }
      (fun t => (t.irqNumber, t.dmaChannel, t.shouldApply)) = some (5, 1, false) ∧
    after (.outbChanSelect 3#16) playing (fun t => t.dmaChannel) = some 1 := by decide +kernel

/-- V56, V57, V62: voice index, register select and AdLib latch read back. -/
theorem test_port_latches :
    after (.outbVoiceIndex 0xE9#16) State.reset (fun t => (t.voiceIndex, t.voiceSelected)) =
      some (9, true) ∧
    reads .inbVoiceIndex { playing with voiceIndex := 9 } = some (.byte 0x09#8) ∧
    after (.outbRegSelect 0x0B#16) { playing with registerData := 0x1234#16 }
      (fun t => (t.selectedRegister, t.registerData)) = some (0x0B#8, 0#16) ∧
    reads .inbRegSelect { playing with selectedRegister := 0x0B#8 } = some (.byte 0x0B#8) ∧
    after (.outbAdlibCmd 0x04#16) playing State.adlibCommand = some 0x04#8 ∧
    reads .inbAdlibCmdRb { playing with adlibCommand := 0x04#8 } = some (.byte 0x04#8) ∧
    reads .inbIrqStatus { playing with irqStatus := 0x84#8 } = some (.byte 0x84#8) := by decide +kernel

/-- V170, V175, V181: the timer status byte. -/
theorem test_timer_status :
    reads .inbTimerStatus State.reset = some (.byte 0xE0#8) ∧
    reads .inbTimerStatus { State.reset with irqStatus := 0x04#8, timer2.expired := false } =
      some (.byte 0xC4#8) ∧
    reads .inbTimerStatus { State.reset with irqStatus := 0x08#8, timer1.expired := false } =
      some (.byte 0xA2#8) := by decide +kernel

/-- V171, V173, V179: the timer command. -/
theorem test_timer_cmd :
    after (.outbTimerCmd 0x80#16) { playing with timer1.masked := true }
      (fun t => (t.timer1, t.timer2.expired)) = some (⟨0xFF#8, false, true, false, false⟩, false) ∧
    after (.outbTimerCmd 0x41#16) playing (fun t => (t.timer1, t.timer2)) =
      some (⟨0xFF#8, true, true, false, true⟩, ⟨0xFF#8, true, false, false, false⟩) ∧
    after (.outbTimerCmd 0x22#16) playing (fun t => (t.timer1.counting, t.timer2)) =
      some (false, ⟨0xFF#8, true, true, false, true⟩) := by decide +kernel

/-- V54, V55, V114: the low byte waits, the high byte and the 16-bit write commit. -/
theorem test_data_ports_commit :
    after (.outbRegDataLo 0x46#16) { playing with selectedRegister := 0x02#8 }
      (fun t => (t.registerData, t.cur.wave.start.toInt)) = some (0x0046#16, 0) ∧
    after (.outbRegDataHi 0x02#16) { playing with selectedRegister := 0x02#8, registerData := 0x46#16 }
      (fun t => (t.registerData, t.cur.wave.start.toInt)) = some (0x0246#16, 0x02460000) ∧
    after (.outwRegData 0x0400#16) { playing with selectedRegister := 0x01#8 }
      (fun t => t.cur.wave.inc.toInt) = some 512 ∧
    after (.outwRegData 0x1234#16) { playing with selectedRegister := 0x50#8 } id =
      some { playing with selectedRegister := 0x50#8, registerData := 0x1234#16 } := by decide +kernel

/-- V53, V54, V129: what the data ports deliver. -/
theorem test_data_ports_read :
    reads .inwRegData { playing with selectedRegister := 0x50#8, registerData := 0x34#16 } =
      some (.half 0x0034#16) ∧
    reads .inbRegDataHi { waving (track 0 0 0 0 0x20#7) with
      selectedRegister := 0x80#8, waveState := 0x10#32 } = some (.byte 0xA0#8) ∧
    reads .inbRegDataLo { playing with selectedRegister := 0x42#8, dmaAddr := 0xBEEF#16 } =
      some (.byte 0xEF#8) := by decide +kernel

/-- V63: poke, then peek. -/
theorem test_poke_and_peek :
    after (.outbDramData 0xAB#16) { playing with dramAddr := 0x12345#20 }
      (fun t => (t.ram, t.dramAddr)) = some ([(0x12345, 0xAB#8)], 0x12345#20) ∧
    reads .inbDramData { playing with dramAddr := 0x12345#20, ram := [(0x12345, 0xAB#8)] } =
      some (.byte 0xAB#8) := by decide +kernel

/-- V100, V101, V102: the wave control byte; V112 the volume one. -/
theorem test_control_bytes :
    after (.waveCtrl 0x2800#16) { playing with waveState := 0x10#32 }
      (fun t => (t.cur.wave.state, t.waveState)) = some (0x28#7, 0#32) ∧
    after (.waveCtrl 0xA000#16) playing (fun t => (t.cur.wave.state, t.waveState, t.irqStatus, t.status)) =
      some (0x20#7, 0x10#32, 0x20#8, 4) ∧
    after (.waveCtrl 0x8000#16) { playing with waveState := 0x10#32 }
      (fun t => (t.cur.wave.state, t.waveState)) = some (0#7, 0#32) ∧
    after (.volCtrl 0x0700#16) playing (fun t => (t.cur.vol.state, t.irqStatus)) =
      some (0x07#7, 0#8) := by decide +kernel

/-- V104: the wave increment. -/
theorem test_wave_rate :
    [0x0000#16, 0x0001#16, 0x0002#16, 0x0003#16, 0x0200#16, 0xFFFF#16].map
      (fun d => after (.waveRate d) playing fun t => (t.cur.wave.rate, t.cur.wave.inc.toInt)) =
    [some (0#16, 0), some (1#16, 1), some (2#16, 1), some (3#16, 2), some (0x0200#16, 256),
      some (0xFFFF#16, 32768)] := by decide +kernel

/-- V105, V106: start and end halves. -/
theorem test_wave_start_and_end :
    after (.waveStartMsw 0x0246#16) playing (fun t => t.cur.wave.start.toInt) = some 0x02460000 ∧
    after (.waveStartLsw 0x8A00#16) (waving (track 0x02460000 0 0 0 0)) (fun t => t.cur.wave.start.toInt) =
      some 0x02468A00 ∧
    after (.waveEndMsw 0xFFFF#16) playing (fun t => t.cur.wave.endAt.toInt) = some 0x1FFF0000 ∧
    after (.waveEndLsw 0x0600#16) (waving (track 0 0x00020000 0 0 0)) (fun t => t.cur.wave.endAt.toInt) =
      some 0x00020600 := by decide +kernel

/-- V107: the position keeps its sign under a low write and loses it under a high one. -/
theorem test_wave_pos :
    after (.wavePosLsw 0#16) (waving (track 0 0 (-256) 0 0)) (fun t => t.cur.wave.pos.toInt) =
      some (-65536) ∧
    after (.wavePosMsw 2#16) (waving (track 0 0 (-65536) 0 0)) (fun t => t.cur.wave.pos.toInt) =
      some 0x00020000 := by decide +kernel

/-- V108, V109, V110: the volume registers. -/
theorem test_volume_writes :
    after (.volRate 0x3F00#16) playing (fun t => (t.cur.vol.rate, t.cur.vol.inc.toInt)) =
      some (0x003F#16, 32256) ∧
    after (.volRate 0xC100#16) playing (fun t => (t.cur.vol.rate, t.cur.vol.inc.toInt)) =
      some (0x00C1#16, 1) ∧
    after (.volStart 0x1000#16) playing (fun t => t.cur.vol.start.toInt) = some 131072 ∧
    after (.volEnd 0xFF00#16) playing (fun t => t.cur.vol.endAt.toInt) = some 2088960 ∧
    after (.volCurrent 0xFFFF#16) playing (fun t => t.cur.vol.pos.toInt) = some 2096640 ∧
    after (.volCurrent 0x0010#16) playing (fun t => t.cur.vol.pos.toInt) = some 512 := by decide +kernel

/-- V111: pan under both modes. -/
theorem test_pan :
    [0x0000#16, 0x0700#16, 0x0F00#16, 0x1000#16, 0x1F00#16, 0xFF00#16].map
      (fun d => after (.pan d) playing fun t => t.cur.panPosition) =
        [some 0, some 7, some 15, some 15, some 15, some 15] ∧
    [0x0000#16, 0x0700#16, 0x0F00#16, 0x1000#16, 0x1F00#16, 0xFF00#16].map
      (fun d => after (.pan d) { playing with params.panWriteMode := .low4 } fun t => t.cur.panPosition) =
        [some 0, some 7, some 15, some 0, some 15, some 15] := by decide +kernel

/-- V120, V121, V122, V126, V127: the wave readbacks. -/
theorem test_wave_readbacks :
    reads .rdWaveCtrl { waving (track 0 0 0 0 0x20#7) with waveState := 0x10#32 } =
      some (.half 0xA000#16) ∧
    reads .rdWaveRate (waving { track 0 0 0 512 0 with rate := 0x0400#16 }) = some (.half 0x0400#16) ∧
    reads .rdWaveStartMsw (waving (track 0x02468A00 0 0 0 0)) = some (.half 0x0246#16) ∧
    reads .rdWaveStartLsw (waving (track 0x02468A00 0 0 0 0)) = some (.half 0x8A00#16) ∧
    reads .rdWaveEndMsw (waving (track 0 0x02468A00 0 0 0)) = some (.half 0x0246#16) ∧
    reads .rdWaveEndLsw (waving (track 0 0x02468A00 0 0 0)) = some (.half 0x8A00#16) ∧
    reads .rdWavePosMsw (waving (track 0 0 657408 0 0)) = some (.half 0x000A#16) ∧
    reads .rdWavePosLsw (waving (track 0 0 657408 0 0)) = some (.half 0x0800#16) ∧
    reads .rdWavePosMsw (waving (track 0 0 (-256) 0 0)) = some (.half 0xFFFF#16) := by decide +kernel

/-- V123, V124, V125, V128: the volume and pan readbacks. -/
theorem test_volume_and_pan_readbacks :
    reads .rdVolRate (ramping { track 0 0 0 0 0 with rate := 0x003F#16 }) = some (.half 0x3F00#16) ∧
    reads .rdVolStart (ramping (track 131072 0 0 0 0)) = some (.half 0x1000#16) ∧
    reads .rdVolEnd (ramping (track 0 2088960 0 0 0)) = some (.half 0xFF00#16) ∧
    reads .rdVolCurrent (ramping (track 0 0 513 0 0)) = some (.half 0x0020#16) ∧
    reads .rdVolCtrl { ramping (track 0 0 0 0 0x21#7) with volState := 0x10#32 } =
      some (.half 0xA100#16) ∧
    reads .rdPan (playing.setCur { playing.cur with panPosition := 15 }) =
      some (.half 0x0F00#16) := by decide +kernel

/-- V115, V130: with no voice selected. -/
theorem test_no_voice_selected :
    after (.waveRate 0x0400#16) State.reset id = some State.reset ∧
    reads .rdWaveCtrl State.reset = some (.half 0x0300#16) ∧
    reads .rdVolCtrl State.reset = some (.half 0x0300#16) ∧
    reads .rdWavePosMsw State.reset = some (.half 0#16) := by decide +kernel

/-- V50: the active-voice count. -/
theorem test_active_voices :
    [0x0000#16, 0x0D00#16, 0xCF00#16, 0xDF00#16].map
      (fun d => after (.activeVoices d) State.reset fun t => (t.activeVoices, t.activeVoiceMask)) =
    [some (14, 0x00003FFF#32), some (14, 0x00003FFF#32), some (16, 0x0000FFFF#32),
      some (32, 0xFFFFFFFF#32)] := by decide +kernel

/-- V68, V69 and P4: the DMA and sampling registers. -/
theorem test_dma_registers :
    after (.dmaCtrl 0xA100#16) { playing with irqStatus := 0xA0#8 }
      (fun t => (t.dmaCtrl, t.irqStatus, t.dmaScheduled)) = some (0xA1#8, 0x20#8, true) ∧
    after (.dmaAddr 0xBEEF#16) playing State.dmaAddr = some 0xBEEF#16 ∧
    reads .rdDmaAddr { playing with dmaAddr := 0xBEEF#16 } = some (.half 0xBEEF#16) ∧
    after (.sampleCtrl 0x0100#16) playing (fun t => (t.sampleCtrl, t.dmaScheduled)) =
      some (0x01#8, true) ∧
    reads .rdSampleCtrl { playing with sampleCtrl := 0x01#8 } = some (.half 0x0100#16) ∧
    after .rdDmaCtrl { playing with dmaCtrl := 0xA1#8, irqStatus := 0x80#8 }
      (fun t => (t.reply, t.irqStatus)) = some (.half 0xE100#16, 0#8) := by decide +kernel

/-- V63, V64, V65: the DRAM address under both orders. -/
theorem test_dram_address :
    after (.dramAddrA 0x2345#16) { playing with dramAddr := 0x10000#20 } State.dramAddr =
      some 0x12345#20 ∧
    after (.dramAddrB 0xF700#16) { playing with dramAddr := 0x12345#20 } State.dramAddr =
      some 0x72345#20 ∧
    after (.dramAddrA 0x0100#16) { playing with params.dramRegOrder := .msbFirst } State.dramAddr =
      some 0x10000#20 ∧
    after (.dramAddrB 0x2345#16)
      { playing with params.dramRegOrder := .msbFirst, dramAddr := 0x10000#20 } State.dramAddr =
      some 0x12345#20 := by decide +kernel

/-- V172, V177, V178: the timer registers. -/
theorem test_timer_registers :
    after (.timerCtrl 0x0400#16) playing
      (fun t => (t.timerCtrl, t.timer1.raiseIrq, t.timer2.raiseIrq, t.out)) =
      some (0x04#8, true, false, []) ∧
    after (.timerCtrl 0#16) { playing with irqStatus := 0x0C#8, timer1.raiseIrq := true }
      (fun t => (t.irqStatus, t.timer1.raiseIrq, t.out)) = some (0#8, false, []) ∧
    after (.timer1Value 0xF000#16) playing (fun t => (t.timer1.value, t.timer2.value)) =
      some (0xF0#8, 0xFF#8) ∧
    after (.timer2Value 0xF000#16) playing (fun t => (t.timer1.value, t.timer2.value)) =
      some (0xFF#8, 0xF0#8) ∧
    reads .rdTimerCtrl { playing with timerCtrl := 0x04#8 } = some (.half 0x0400#16) := by decide +kernel

/-- V51, V52, V182: the run states. -/
theorem test_runtime_ctrl :
    after (.runtimeCtrl 0#16) { playing with timer1.counting := true, irqStatus := 0x04#8 }
      (fun t => (t.outputEnabled, t.activeVoices, t.irqStatus, t.timer1.counting, t.timer1.expired)) =
      some (false, 0, 0#8, false, true) ∧
    after (.runtimeCtrl 0x0100#16) { playing with waveState := 1#32 }
      (fun t => (t.outputEnabled, t.irqEnabled, t.waveState, (t.voice 31).wave.state,
        (t.voice 31).panPosition)) = some (true, false, 0#32, 0x01#7, 7) ∧
    after (.runtimeCtrl 0x0500#16) { playing with outputEnabled := false, irqEnabled := false }
      (fun t => (t.outputEnabled, t.irqEnabled)) = some (true, true) ∧
    after (.runtimeCtrl 0x0700#16) State.reset (fun t => (t.outputEnabled, t.irqEnabled)) =
      some (false, true) := by decide +kernel

/-- V60, V61, V165: the voice IRQ read. -/
theorem test_voice_irq_read :
    after .rdVoiceIrq { playing with waveState := 0x208#32, status := 3, irqStatus := 0x20#8 }
      (fun t => (t.reply, t.waveState, t.irqStatus, t.status, t.out)) =
      some (.half 0x6300#16, 0x200#32, 0x20#8, 9, [.irqAssert 5]) ∧
    after .rdVoiceIrq { playing with waveState := 8#32, volState := 8#32, status := 3 }
      (fun t => (t.reply, t.irqStatus)) = some (.half 0x2300#16, 0#8) ∧
    reads .rdVoiceIrq { playing with status := 7 } = some (.half 0xE700#16) := by decide +kernel

/-! ### Interrupts -/

/-- V160, V161, V162: the gates of the line. -/
theorem test_check_irq :
    ({ playing with irqStatus := 0x20#8, irqEnabled := false } : State).checkIrq.out = [] ∧
    ({ playing with irqStatus := 0x84#8, irqEnabled := false } : State).checkIrq.out = [.irqAssert 5] ∧
    ({ playing with irqStatus := 0x80#8, mixCtrl := 0x03#8 } : State).checkIrq.out = [] := by
  decide +kernel

/-- Fourteen voices active. -/
def fourteen : State := { playing with activeVoices := 14, activeVoiceMask := 0x3FFF#32 }

/-- V61, V163, V164: the cursor. -/
theorem test_cursor :
    ({ playing with status := 5, waveState := 0x208#32, volState := 8#32 } : State).checkVoiceIrq.status =
      9 ∧
    ({ fourteen with status := 20, waveState := 4#32 } : State).checkVoiceIrq.status = 2 ∧
    ({ fourteen with status := 7, waveState := 0x100000#32 } : State).checkVoiceIrq =
      { fourteen with status := 7, waveState := 0x100000#32 } := by decide +kernel

/-! ### Track advance -/

/-- Position and flags of the wave track of voice 4 and the pending mask after an advance. -/
def advanced (t : Track) (suppress : Bool) : Option (Int × Int × TrackFlags × Word) :=
  match (waving t).advance 4 .wave suppress with
  | .ok (p, u) => some (p.toInt, u.cur.wave.pos.toInt, u.cur.wave.state, u.waveState)
  | .error _ => none

/-- V1 to V8 (the voice here is 4). -/
theorem test_advance :
    [advanced (track 0 2048 512 512 0x00#7) false, advanced (track 0 1536 1024 512 0x20#7) false,
      advanced (track 512 2048 1792 768 0x08#7) false, advanced (track 512 2048 1792 768 0x18#7) false,
      advanced (track 512 2048 768 768 0x58#7) false, advanced (track 512 2048 768 768 0x40#7) false,
      advanced (track 512 2048 768 768 0x22#7) false, advanced (track 0 1536 1280 512 0x20#7) true] =
    [some (512, 1024, 0x00#7, 0), some (1024, 1536, 0x21#7, 0x10#32), some (1792, 1024, 0x08#7, 0),
      some (1792, 1536, 0x58#7, 0), some (768, 1024, 0x18#7, 0), some (768, 512, 0x41#7, 0),
      some (768, 768, 0x22#7, 0), some (1280, 1792, 0x20#7, 0x10#32)] := by decide +kernel

/-- V11 to V16. -/
theorem test_advance_corners :
    [advanced (track 0 1024 512 0 0x00#7) false, advanced (track 0 1024 1024 0 0x20#7) false,
      advanced (track 1024 1536 1280 2048 0x08#7) false, advanced (track 1024 1536 1280 2048 0x18#7) false,
      advanced (track 1024 1536 (-256) 2048 0x58#7) false, advanced (track 2048 512 1024 512 0x00#7) false,
      advanced (track 0 2147483647 2147483392 512 0x00#7) false] =
    [some (512, 512, 0x00#7, 0), some (1024, 1024, 0x21#7, 0x10#32), some (1280, 2816, 0x08#7, 0),
      some (1280, -256, 0x58#7, 0), some (-256, 4352, 0x18#7, 0), some (1024, 512, 0x01#7, 0), none] := by
  decide +kernel

/-! ### Samples, volume, frames -/

/-- V20 to V26: 8-bit samples. -/
theorem test_interp_8_bit :
    ({ playing with ram := [(0x100, 0x10#8), (0x101, 0x30#8)] } : State).interp
      (track 0 0 0 256 0) (0x100 * 512 + 128) = .ofRat 6144 ∧
    ({ playing with ram := [(0x100, 0x10#8), (0x101, 0x30#8)] } : State).interp
      (track 0 0 0 512 0) (0x100 * 512 + 128) = .ofRat 4096 ∧
    ({ playing with ram := [(0x100, 0x10#8), (0x101, 0x30#8)] } : State).interp
      (track 0 0 0 511 0) (0x100 * 512 + 511) = .ofRat 12272 ∧
    ({ playing with ram := [(0x100, 0x80#8)] } : State).interp
      (track 0 0 0 512 0) (0x100 * 512) = .ofRat (-32768) ∧
    ({ playing with ram := [(0, 0x40#8), (0xFFFFF, 0x20#8)] } : State).interp
      (track 0 0 0 256 0) (0xFFFFF * 512 + 256) = .ofRat 12288 := by decide +kernel

/-- V27, V28, V29: 16-bit samples under both presets. -/
theorem test_interp_16_bit :
    ({ playing with ram := [(0x20, 0x34#8), (0x21, 0x12#8)] } : State).interp
      (track 0 0 0 512 0x04#7) (0x2010 * 512) = .ofRat 4660 ∧
    ({ playing with
        ram := [(0x4020, 0xFF#8), (0x4021, 0x7F#8)]
        params.addr16LowerBits := 17, params.addr16UpperMask := 0xC0000#20 } : State).interp
      (track 0 0 0 512 0x04#7) (0x2010 * 512) = .ofRat 32767 ∧
    ({ playing with ram := [(0x20, 0x00#8), (0x21, 0x80#8)] } : State).interp
      (track 0 0 0 512 0x04#7) (0x2010 * 512) = .ofRat (-32768) := by decide +kernel

/-- Whether a number is within `10^-9` of a rational. -/
def near (x : Exact) (q : Rat) : Bool := (x.sub (.ofRat q)).abs.lt (.ofRat (1 / 1000000000))

/-- V30, V31, and V32 to nine places. -/
theorem test_volume_tables :
    [0x00#8, 0x01#8, 0x08#8, 0x3F#8, 0x41#8, 0x7F#8, 0x81#8, 0x88#8, 0xBF#8, 0xC1#8, 0xC2#8, 0xFF#8].map
      (fun b => (volInc b).toInt) = [0, 512, 4096, 32256, 64, 4032, 8, 64, 504, 1, 2, 63] ∧
    [-513, -1, 0, 1, 512, 513, 2096640, 2096641, 2128896].map (fun p => volIndex (S32.ofInt p)) =
      [0, 0, 0, 1, 1, 2, 4095, 4095, 4095] ∧
    near (volEntry Config.defaultParams 4080) (960229399 / 1000000000) = true ∧
    near (volEntry Config.defaultParams 4094) (997298119 / 1000000000) = true := by decide +kernel

/-- V40 to nine places. -/
theorem test_pan_table :
    panLeft Config.defaultParams 0 = .ofRat 1 ∧ panRight Config.defaultParams 0 = .ofRat 0 ∧
    near (panLeft Config.defaultParams 3) (943883330 / 1000000000) = true ∧
    near (panRight Config.defaultParams 3) (330279062 / 1000000000) = true ∧
    near (panLeft Config.defaultParams 8) (634393284 / 1000000000) = true ∧
    near (panRight Config.defaultParams 8) (773010453 / 1000000000) = true := by decide +kernel

/-- Voice 0 of V41 at a pan position, and the frame it leaves. -/
def oneFrame (pan : Fin 16) : Option (List Frame × Int) :=
  match (({ playing with ram := [(0, 0x40#8)], acc := [⟨.ofRat 0, .ofRat 0⟩] } : State).setVoice 0
      ⟨track 0 2048 0 512 0, track 0 0 (4095 * 512) 0 0x03#7, pan⟩).voiceFrame 0 0 with
  | .ok t => some (t.acc, (t.voice 0).wave.pos.toInt)
  | .error _ => none

/-- V41, V42. -/
theorem test_voice_frame :
    oneFrame 0 = some ([⟨.ofRat 16384, .ofRat 0⟩], 512) ∧
    oneFrame 15 = some ([⟨.ofRat 0, .ofRat 16384⟩], 512) := by decide +kernel

/-- What the output stage pushes and the peaks it leaves, for one frame. -/
def pushedExact (pl pr l r : Exact) : List OutEvent × Exact × Exact :=
  let t := ({ playing with peakLeft := pl, peakRight := pr, acc := [⟨l, r⟩] } : State).output
  (t.out, t.peakLeft, t.peakRight)

def pushed (pl pr l r : Rat) : List OutEvent × Exact × Exact :=
  pushedExact (.ofRat pl) (.ofRat pr) (.ofRat l) (.ofRat r)

/-- V80 to V86. -/
theorem test_output :
    pushed 1 1 16384 (-803 / 4) = ([.audioPush [(16384#16, -200#16)]], .ofRat 16384, .ofRat (803 / 4)) ∧
    pushed 1 1 36384 1000 = ([.audioPush [(32767#16, 1000#16)]], .ofRat 36284, .ofRat 1000) ∧
    pushed 65434 1000 1000 1000 = ([.audioPush [(500#16, 1000#16)]], .ofRat 65334, .ofRat 1000) ∧
    pushed 1 1 (-32768) 0 = ([.audioPush [(-32767#16, 0#16)]], .ofRat 32668, .ofRat 1) ∧
    pushed 32800 1 0 0 = ([.audioPush [(0#16, 0#16)]], .ofRat 32700, .ofRat 1) ∧
    pushed 32767 1 32767 0 = ([.audioPush [(32767#16, 0#16)]], .ofRat 32767, .ofRat 1) := by decide +kernel

/-- Irrational sums: `16384 cos (π / 4)` is 11585.24 truncated, and `100000 cos (π / 4)` is scaled down to
full scale. -/
theorem test_output_of_irrational_sums :
    pushedExact (.ofRat 1) (.ofRat 1) ((Exact.cosine 56).scale 16384) ((Exact.cosine 56).scale (-16384)) =
      ([.audioPush [(11585#16, -11585#16)]], (Exact.cosine 56).scale 16384, (Exact.cosine 56).scale 16384) ∧
    (pushedExact (.ofRat 1) (.ofRat 1) ((Exact.cosine 56).scale 100000) (.ofRat 0)).1 =
      [.audioPush [(32767#16, 0#16)]] := by decide +kernel

/-- `2 cos² (π / 8) = 1 + cos (π / 4)`. -/
theorem test_product :
    ((Exact.cosine 28).mul (.cosine 28)).scale 2 = (Exact.ofRat 1).add (.cosine 56) := by decide +kernel

/-- A release of which nothing is known but that it is positive is taken from the peak as it is, once. -/
theorem test_unknown_release :
    released { Config.defaultParams with limitRelease := .unknown 3 } (.ofRat 40000) =
      (Exact.ofRat 40000).sub (.power (.limitRelease 3) 1) ∧
    released { Config.defaultParams with limitRelease := .unknown 3 } (.ofRat 32767) = .ofRat 32767 := by
  decide +kernel

/-! ### DMA and timers -/

/-- A field of the state that a step leaves. -/
def left {α : Type} (r : Result) (f : State → α) : Option α :=
  match r with
  | .next t => some (f t)
  | _ => none

/-- V70 to V75: the first byte of a transfer. -/
theorem test_dma_base :
    dmaBase 0x00#8 1 0x0040#16 = 0x00400#20 ∧ dmaBase 0x04#8 5 0x1234#16 = 0x24680#20 ∧
    dmaBase 0x04#8 1 0x1234#16 = 0x12340#20 ∧ dmaBase 0x04#8 5 0xC001#16 = 0xC0020#20 ∧
    dmaBase 0x00#8 1 0xFFFF#16 = 0xFFFF0#20 ∧ dmaBase 0x04#8 5 0xFFFF#16 = 0xFFFE0#20 ∧
    dmaBase 0x04#8 4 0x2000#16 = 0x00000#20 := by decide +kernel

/-- V76, V77, V78: uploads. -/
theorem test_dma_upload :
    left (dmaTransfer [0x00#8, 0x80#8] { playing with dmaCtrl := 0x21#8, dmaAddr := 0x0040#16 })
      (fun t => (t.ram, t.irqStatus, t.dmaScheduled, t.out)) =
        some ([(0x400, 0x00#8), (0x401, 0x80#8)], 0x80#8, false, [.irqAssert 5]) ∧
    left (dmaTransfer [0x00#8, 0x80#8] { playing with dmaCtrl := 0xA1#8, dmaAddr := 0x0040#16 })
      State.ram = some [(0x400, 0x80#8), (0x401, 0x00#8)] ∧
    left (dmaTransfer [0x01#8, 0x80#8, 0xFF#8, 0x7F#8]
      { playing with dmaCtrl := 0xE1#8, dmaAddr := 0x0040#16 }) State.ram =
        some [(0x400, 0x01#8), (0x401, 0x00#8), (0x402, 0xFF#8), (0x403, 0xFF#8)] := by decide +kernel

/-- V79, V79a, V79b, and the range fault of V73. -/
theorem test_dma_download_gate_and_range :
    left (dmaTransfer [0#8, 0#8] { playing with
      dmaCtrl := 0x03#8, dmaAddr := 0x0040#16, ram := [(0x400, 0x80#8), (0x401, 0xC0#8)] })
      (fun t => (t.out, t.dmaScheduled)) = some ([.hostWrite 1 [0x80#8, 0xC0#8]], true) ∧
    left (dmaStep ((Vector.replicate 8 ⟨false, [1#8]⟩).set 1 ⟨true, [1#8]⟩)
      { playing with dmaScheduled := true, dmaCtrl := 1#8 }) id =
      some { playing with dmaScheduled := false, dmaCtrl := 1#8 } ∧
    left (dmaStep ((Vector.replicate 8 ⟨true, [1#8]⟩).set 3 ⟨false, [7#8]⟩)
      { playing with dmaScheduled := true, dmaCtrl := 1#8, dmaChannel := 3 }) State.ram =
      some [(0, 7#8)] ∧
    left (dmaTransfer (List.replicate 17 0#8) { playing with dmaCtrl := 1#8, dmaAddr := 0xFFFF#16 }) id =
      none := by decide +kernel

/-- V174, V179, V181: expiries. -/
theorem test_timer_expiries :
    left (timer1Step { playing with timer1 := ⟨0xF0#8, false, false, true, true⟩ })
      (fun t => (t.timer1.expired, t.irqStatus, t.out)) = some (true, 0x04#8, [.irqAssert 5]) ∧
    left (timer1Step { playing with timer1 := ⟨0xF0#8, false, true, false, true⟩ })
      (fun t => (t.timer1.expired, t.irqStatus, t.out)) = some (false, 0#8, []) ∧
    left (timer2Step { playing with timer2 := ⟨0xFF#8, false, false, true, true⟩ })
      (fun t => (t.timer2.expired, t.irqStatus)) = some (true, 0x08#8) := by decide +kernel

/-! ### Witnesses: each statement with hypotheses has a state and operands that meet them

For a statement of several clauses, one conjunct for each clause; a boundary value where a clause has a
range. -/

/-- The fault of a step, if it is one. -/
def faultOf (r : Result) : Option Fault :=
  match r with
  | .fault e => some e
  | _ => none

/-- The refusal of a step, if it is one. -/
def refusalOf (r : Result) : Option Refusal :=
  match r with
  | .refused e => some e
  | _ => none

theorem witness_DecodeInvertsEncode :
    Instr.wellFormed (.outbMixCtrl 0xFF#16) = true ∧ Instr.wellFormed (.pan 0xFFFF#16) = true ∧
      Instr.wellFormed .rdVoiceIrq = true := by decide

theorem witness_DecodedBytesAreTheEncoding :
    decode [0x04#8, 0x00#8, 0x08#8, 0x82#8] = .ok (.outbAdlibCmd 0x04#16) ∧
      decode [0x00#8, 0x07#8, 0x0C#8] = .ok (.pan 0x0700#16) ∧ decode [0x8F#8] = .ok .rdVoiceIrq := by
  decide

theorem witness_StepRunsTheDecodedCommand :
    State.reset.inbox = [] ∧
    ({ playing with inbox := [.timer1] } : State).inbox = .timer1 :: [] ∧
    ({ playing with inbox := [.command [0x8F#8]] } : State).inbox = .command [0x8F#8] :: [] ∧
    decode [0x8F#8] = .ok .rdVoiceIrq ∧ decodeTableWord 24 0x0C0700 = some (.pan 0x0700#16) := by
  decide +kernel

/-- A transaction at an offset, under the port base `0x240`. -/
def onBus (write wide : Bool) (offset : Nat) (value : Half) : State :=
  { playing with params.portBase := 0x240, inbox := [.bus ⟨write, wide, offset + 0x40, value⟩] }

/-- Offsets `0x302` (listed), `0xFFF` and `0` (the ends of the map), `0x206` (listed as a read only) and `0x306`
(not listed), and the first port numbers below and above the map. -/
theorem witness_BusTransactions :
    (∀ o < 0x1000, ∀ w d : Bool, ∀ v : Half,
      (onBus w d o v).inbox = .bus ⟨w, d, o + 0x40, v⟩ :: [] ∧
        o + 0x40 + 0x200 = o + (onBus w d o v).params.portBase) ∧
    decode (encodeBtw (transactionHi ⟨true, false, 0x342, 9#16⟩ 0x302) 9#16) =
      .ok (.outbVoiceIndex 9#16) ∧
    Transaction.wellFormed ⟨true, false, 0xFFF + 0x40, 0xFF#16⟩ = true ∧
    (0xFFF ∉ [0x200, 0x208, 0x209, 0x20B, 0x302, 0x303, 0x304, 0x305, 0x307] ∧
      0x206 ∉ [0x200, 0x208, 0x209, 0x20B, 0x302, 0x303, 0x304, 0x305, 0x307]) ∧
    Transaction.wellFormed ⟨false, false, 0x40, 0#16⟩ = true ∧
    0 ∉ [0x206, 0x208, 0x20A, 0x302, 0x303, 0x304, 0x305, 0x307] ∧
    (Transaction.wellFormed ⟨true, true, 0x346, 0xFFFF#16⟩ = true ∧
      Transaction.wellFormed ⟨false, true, 0x346, 0#16⟩ = true ∧
      0x306 ∉ [0x200, 0x206, 0x208, 0x209, 0x20A, 0x20B, 0x302, 0x303, 0x304, 0x305, 0x307]) ∧
    0x307 ∈ [0x200, 0x206, 0x208, 0x209, 0x20A, 0x20B, 0x302, 0x303, 0x305, 0x307] ∧
    (0x3F + 0x200 < playing.params.portBase + 0x40 ∧
      playing.params.portBase + 0x40 + 0x1000 ≤ 0x1040 + 0x200) := by
  refine ⟨fun o _ w d v => ⟨rfl, rfl⟩, ?_⟩
  decide

theorem witness_EveryHostCommandCompletes :
    (∀ v, Instr.rdVoiceIrq ≠ .outbDramData v) ∧ ∀ v, Instr.outbDramData 0#16 ≠ .outbChanSelect v := by
  simp

theorem witness_OtherReadsChangeOnlyTheReply :
    ({ playing with selectedRegister := 0x8E#8 } : State).selectedRegister ≠ 0x41#8 ∧
      ({ playing with selectedRegister := 0x8E#8 } : State).selectedRegister ≠ 0x8F#8 := by decide +kernel

theorem witness_TimerPorts : (0x80#16).getLsbD 7 = true ∧ (0x7F#16).getLsbD 7 = false := by decide

theorem witness_ChannelSelectIsArmedOnce :
    State.reset.shouldApply = false ∧
    ({ playing with mixCtrl := 0x40#8, shouldApply := true } : State).shouldApply = true ∧
    ({ playing with mixCtrl := 0x40#8, shouldApply := true } : State).mixCtrl.getLsbD 6 = true ∧
    ({ playing with shouldApply := true } : State).mixCtrl.getLsbD 6 = false := by decide +kernel

theorem witness_CommitRunsTheRegisterWrite :
    decode (encodeRegw 0x4C#8 0x0700#16) = .ok (.runtimeCtrl 0x0700#16) ∧
      ∀ i, decode (encodeRegw 0x50#8 0x0700#16) ≠ .ok i := by
  refine ⟨by decide, fun i => ?_⟩
  rw [show decode (encodeRegw 0x50#8 0x0700#16) = .error .unknownRegisterWrite by decide]
  simp

theorem witness_DataPortReadsPerformOneRegisterRead :
    decode [0x80#8] = .ok .rdWaveCtrl ∧ ∀ i, decode [0x50#8] ≠ .ok i := by
  refine ⟨by decide, fun i => ?_⟩
  rw [show decode [0x50#8] = .error .unknownRegisterRead by decide]
  simp

theorem witness_PeekAndPoke :
    (0xFFFFF#20 : RamAddr) ≠ ({ playing with dramAddr := 0x12345#20 } : State).dramAddr := by
  decide +kernel

theorem witness_VoiceAccessesWithoutAVoice : State.reset.voiceSelected = false := rfl

/-- For `WaveRateWrite`, `VolumeWrites`, `PanWrite`, `WaveReadbacks` and
`VoiceRegistersReadBackWhatWasWritten`; the two pan modes. -/
theorem witness_voiceSelected :
    playing.voiceSelected = true ∧ playing.params.panWriteMode = .saturate ∧
      ({ playing with params.panWriteMode := .low4 } : State).voiceSelected = true ∧
      ({ playing with params.panWriteMode := .low4 } : State).params.panWriteMode = .low4 := by
  decide +kernel

theorem witness_WaveAddressWrites (d : Half) : playing.voiceSelected = true ∧
    ∃ msw lsw : S32 → S32,
      (∀ f, (msw f).word = ((d &&& 0x1FFF#16).setWidth 32 <<< 16) ||| (f.word &&& 0x0000FFFF#32)) ∧
      ∀ f, (lsw f).word = (f.word &&& 0xFFFF0000#32) ||| d.setWidth 32 :=
  ⟨rfl, fun f => .ofWord (((d &&& 0x1FFF#16).setWidth 32 <<< 16) ||| (f.word &&& 0x0000FFFF#32)),
    fun f => .ofWord ((f.word &&& 0xFFFF0000#32) ||| d.setWidth 32),
    fun _ => S32.word_ofWord _, fun _ => S32.word_ofWord _⟩

/-- A forced pending bit (`0xA0`) and a cleared one (`0x80`). -/
theorem witness_ControlByteWrites : playing.voiceSelected = true ∧
    (∀ k, (0x10#32).getLsbD k = if k = playing.voiceIndex.val
      then (0xA000#16).getLsbD 15 && (0xA000#16).getLsbD 13 else playing.waveState.getLsbD k) ∧
    (∀ k, (0#32).getLsbD k = if k = playing.voiceIndex.val
      then (0x8000#16).getLsbD 15 && (0x8000#16).getLsbD 13 else playing.volState.getLsbD k) := by
  refine ⟨rfl, fun k => ?_, fun k => ?_⟩
  · have h : (0x10#32).getLsbD k = decide (k = 4) := getLsbD_voiceBit 4 k
    rw [h]
    change _ = if k = 4 then true else (0#32).getLsbD k
    by_cases e : k = 4 <;> simp [e]
  · change _ = if k = 4 then false else (0#32).getLsbD k
    simp

/-- Bound bytes at the ends of their range. -/
theorem witness_VolumeControlAndPanReadbacks :
    let s := ramping (track (0xFF * 16 * 512) 0 513 0 0)
    s.voiceSelected = true ∧ s.cur.vol.start.toInt = ((0xFF#8).toNat * 16 * 512 : Nat) ∧
      s.cur.vol.endAt.toInt = ((0x00#8).toNat * 16 * 512 : Nat) := by decide +kernel

theorem witness_DramAddressWrites : playing.params.dramRegOrder = .lswFirst ∧
    ({ playing with params.dramRegOrder := .msbFirst } : State).params.dramRegOrder = .msbFirst := by
  decide +kernel

/-- For `RuntimeStopAndBegin` and `RuntimePrepare`. -/
theorem witness_run_states : (0xF800#16).toNat / 256 % 8 = 0 ∧ 2 ≤ (0x0200#16).toNat / 256 % 8 ∧
    2 ≤ (0xFFFF#16).toNat / 256 % 8 ∧ (0x0100#16).toNat / 256 % 8 = 1 := by decide

/-! #### Sound states -/

/-- All voices as at power-on. -/
theorem playing_voice (v : Fin 32) : playing.voice v = Voice.powerOn := by
  simp [playing, State.reset, State.powerOn, State.voice]

/-- A state with `n` voices active is sound. -/
theorem playing_inv {n : Nat} (hn : 14 ≤ n ∧ n ≤ 32) (w : Word) (c : Fin 32) (b : List AgentStep) :
    ({ playing with
      activeVoices := n, activeVoiceMask := maskOf n, waveState := w, status := c
      inbox := b } : State).Inv := by
  refine ⟨.inr hn, rfl, by simp [playing, State.reset, State.powerOn], State.wf_powerOn Config.defaultParams, rfl, ?_⟩
  intro v
  change (playing.voice v).Sound
  rw [playing_voice]
  exact ⟨rfl, rfl, rfl, ⟨0, rfl⟩, ⟨0, rfl⟩⟩

/-- Both clauses, the second with the last of 32 voices pending and the cursor just past it. -/
theorem witness_CursorFindsTheNextPendingVoice :
    (let s : State := { playing with
      activeVoices := 14, activeVoiceMask := maskOf 14, waveState := 0#32, status := 13, inbox := [] }
    s.Inv ∧ s.totalPending = 0) ∧
    (let s : State := { playing with
      activeVoices := 32, activeVoiceMask := maskOf 32, waveState := 0x80000000#32, status := 0
      inbox := [] }
    s.Inv ∧ s.totalPending ≠ 0) :=
  ⟨⟨playing_inv (by decide) _ _ _, by decide +kernel⟩, playing_inv (by decide) _ _ _, by decide +kernel⟩

theorem witness_VoiceIrqReadsDrainThePendingVoices :
    ({ playing with
      activeVoices := 14, activeVoiceMask := maskOf 14, waveState := 0x3FFF#32, status := 31
      inbox := [] } : State).Inv := playing_inv (by decide) _ _ _

/-! #### Tracks -/

theorem witness_AdvanceReturnsThePositionBefore :
    ((playing.voice 4).track .wave).state &&& 0x03#7 ≠ 0 ∧
      (∃ p t, (waving (track 0 1536 1024 512 0x20#7)).advance 4 .wave false = .ok (p, t)) := by
  refine ⟨by decide +kernel, ?_⟩
  exact ⟨_, _, State.advance_of_next (axis := .wave) (by decide +kernel)
    (Track.next_of_stop (p := S32.ofInt 1536) (by decide +kernel) (by decide +kernel) (by decide +kernel))⟩

/-- Up, and down, each to the last position short of the boundary. -/
theorem witness_AdvanceWithoutCrossing :
    (let t := ((waving (track 0 1025 512 512 0)).voice 4).track .wave
    t.state &&& 0x03#7 = 0 ∧ t.state.getLsbD 6 = false ∧
      (S32.ofInt 1024).toInt = t.pos.toInt + t.inc.toInt ∧ (S32.ofInt 1024).toInt < t.endAt.toInt) ∧
    (let t := ((waving (track 511 2048 1024 512 0x40#7)).voice 4).track .wave
    t.state &&& 0x03#7 = 0 ∧ t.state.getLsbD 6 = true ∧
      (S32.ofInt 512).toInt = t.pos.toInt - t.inc.toInt ∧ t.start.toInt < (S32.ofInt 512).toInt) := by
  decide +kernel

/-- The mask of a voice that signals. -/
theorem signal_mask (s : State) (axis : Axis) (v : Fin 32) (b : Bool) (k : Nat) :
    (signalled (s.pending axis) v b).getLsbD k = ((s.pending axis).getLsbD k || (k == v.val && b)) :=
  getLsbD_signalled _ _ _ _

/-- Exact landing upward, and an overshoot downward. -/
theorem witness_AdvanceStopsAtTheBoundary :
    (let s := waving (track 0 1536 1024 512 0x20#7)
    let t := (s.voice 4).track .wave
    t.state &&& 0x03#7 = 0 ∧ t.state.getLsbD 3 = false ∧ t.state.getLsbD 6 = false ∧
      (S32.ofInt 1536).toInt = t.pos.toInt + t.inc.toInt ∧ t.endAt.toInt ≤ (S32.ofInt 1536).toInt ∧
      ∀ k, (signalled (s.pending .wave) 4 true).getLsbD k =
        ((s.pending .wave).getLsbD k || (k == (4 : Fin 32).val && t.state.getLsbD 5))) ∧
    (let t := ((waving (track 512 2048 768 768 0x40#7)).voice 4).track .wave
    t.state &&& 0x03#7 = 0 ∧ t.state.getLsbD 3 = false ∧ t.state.getLsbD 6 = true ∧
      (S32.ofInt 0).toInt = t.pos.toInt - t.inc.toInt ∧ (S32.ofInt 0).toInt ≤ t.start.toInt) := by
  refine ⟨⟨by decide +kernel, by decide +kernel, by decide +kernel, by decide +kernel, by decide +kernel,
    fun k => ?_⟩, by decide +kernel⟩
  rw [signal_mask, show (((waving (track 0 1536 1024 512 0x20#7)).voice 4).track .wave).state.getLsbD 5 =
    true by decide +kernel]

theorem witness_AdvanceRollsOver :
    let s := waving (track 0 1536 1280 512 0x20#7)
    let t := (s.voice 4).wave
    t.state &&& 0x03#7 = 0 ∧ t.state.getLsbD 6 = false ∧
      (S32.ofInt 1792).toInt = t.pos.toInt + t.inc.toInt ∧ t.endAt.toInt ≤ (S32.ofInt 1792).toInt ∧
      ∀ k, (signalled s.waveState 4 true).getLsbD k =
        (s.waveState.getLsbD k || (k == (4 : Fin 32).val && t.state.getLsbD 5)) := by
  refine ⟨by decide +kernel, by decide +kernel, by decide +kernel, by decide +kernel, fun k => ?_⟩
  rw [getLsbD_signalled, show ((waving (track 0 1536 1280 512 0x20#7)).voice 4).wave.state.getLsbD 5 =
    true by decide +kernel]

/-- V3 (one-way), V4 and V5 (bidirectional, turning at each end). -/
theorem witness_AdvanceLoopsWithItsOvershoot :
    (let t := track 512 2048 1792 768 0x08#7
    t.state &&& 0x03#7 = 0 ∧ t.state.getLsbD 3 = true ∧ t.state.getLsbD 4 = false ∧
      t.state.getLsbD 6 = false ∧ (S32.ofInt 2560).toInt = t.pos.toInt + t.inc.toInt ∧
      0 ≤ (S32.ofInt 2560).toInt - t.endAt.toInt ∧
      (S32.ofInt 1024).toInt = t.start.toInt + ((S32.ofInt 2560).toInt - t.endAt.toInt)) ∧
    (let t := track 512 2048 1792 768 0x18#7
    t.state &&& 0x03#7 = 0 ∧ t.state.getLsbD 3 = true ∧ t.state.getLsbD 4 = true ∧
      t.state.getLsbD 6 = false ∧
      (S32.ofInt 1536).toInt = t.endAt.toInt - ((S32.ofInt 2560).toInt - t.endAt.toInt)) ∧
    (let t := track 512 2048 768 768 0x58#7
    t.state &&& 0x03#7 = 0 ∧ t.state.getLsbD 3 = true ∧ t.state.getLsbD 4 = true ∧
      t.state.getLsbD 6 = true ∧ (S32.ofInt 0).toInt = t.pos.toInt - t.inc.toInt ∧
      (S32.ofInt 1024).toInt = t.start.toInt + (t.start.toInt - (S32.ofInt 0).toInt)) ∧
    (∀ k, (signalled playing.waveState 4 false).getLsbD k =
      (playing.waveState.getLsbD k || (k == (4 : Fin 32).val && (0x08#7).getLsbD 5))) := by
  refine ⟨by decide +kernel, by decide +kernel, by decide +kernel, fun k => ?_⟩
  rw [getLsbD_signalled]
  rfl

/-- Each bound of `s32`, reached and passed by one: by a step up and a step down, into a stop and under
rollover, and by a loop; and a disabled track, which does not step. -/
theorem witness_overflow :
    let fault (t : Track) (suppress : Bool) : Option Fault :=
      match (waving t).advance 4 .wave suppress with
      | .ok _ => none
      | .error e => some e
    let up (pos : Int) : Track := track 0 0 pos 1 0
    let down (pos : Int) : Track := track (-2147483648) 0 pos 1 0x40#7
    let loop (pos : Int) : Track := track 0 (-1073741824) pos 1 0x18#7
    [fault (up 2147483646) false, fault (up 2147483646) true, fault (down (-2147483647)) false,
      fault (loop (-1)) false, fault (loop 0) true,
      fault { up 2147483647 with state := 0x01#7 } false] = [none, none, none, none, none, none] ∧
    [fault (up 2147483647) false, fault (up 2147483647) true, fault (down (-2147483648)) false,
      fault (loop 0) false] = List.replicate 4 (some .trackOverflow) := by decide +kernel

/-- The increment as long as the loop, the position at its upper end. -/
theorem witness_LoopingTrackStaysWithinItsBounds :
    let t := ((waving (track 512 2048 2048 1536 0x18#7)).voice 4).track .wave
    t.state &&& 0x03#7 = 0 ∧ t.state.getLsbD 3 = true ∧ t.start.toInt ≤ t.pos.toInt ∧
      t.pos.toInt ≤ t.endAt.toInt ∧ 0 < t.inc.toInt ∧ t.inc.toInt ≤ t.endAt.toInt - t.start.toInt ∧
      -2147483648 ≤ t.start.toInt - t.inc.toInt ∧ t.endAt.toInt + t.inc.toInt ≤ 2147483647 := by
  decide +kernel

/-! #### Tables, samples, frames -/

/-- Positions 0 and 1, and the last index, each at the bound of its clause. -/
theorem witness_VolumeIndexRoundsUpAndClamps :
    (S32.ofInt 0).toInt ≤ 0 ∧ 4095 * 512 ≤ (S32.ofInt 2096640).toInt ∧ 0 < (S32.ofInt 1).toInt ∧
      (S32.ofInt 1).toInt ≤ 4095 * 512 := by decide +kernel

/-- A configuration whose real parameters are unknown. -/
def unknownParams : Params :=
  { Config.defaultParams with volStepRatio := .unknown 0, limitRelease := .unknown 0 }

/-- Exact numerics and parameters in their ranges, rational ones and unknown ones: for `VolumeTableIsGeometric`,
`PanTableHasConstantPower`, `OutputNeverExceedsFullScale` and the first part of
`InterpolatedSampleLiesBetween`. -/
theorem witness_exact_numerics :
    Config.defaultParams.numerics = .exact ∧ playing.params.numerics = .exact ∧
      unknownParams.numerics = .exact ∧ Config.defaultParams.wellFormed = true ∧
      unknownParams.wellFormed = true ∧ 1 < Config.defaultParams.ratio ∧ 1 < unknownParams.ratio :=
  ⟨rfl, rfl, rfl, by decide +kernel, by decide +kernel, Params.one_lt_ratio (by decide +kernel),
    Params.one_lt_ratio (by decide +kernel)⟩

theorem witness_SampleFetchReadsByWidth : (track 0 0 0 0 0).state.getLsbD 2 = false ∧
    (track 0 0 0 0 0x04#7).state.getLsbD 2 = true ∧ playing.params.addr16LowerBits < 20 ∧
    ({ playing with params.addr16LowerBits := 19 } : State).params.addr16LowerBits < 20 := by
  decide +kernel

theorem witness_SilentVoicesAndDisabledOutput :
    (playing.voice 4).wave.state &&& 0x03#7 ≠ 0 ∧ (playing.voice 4).vol.state &&& 0x03#7 ≠ 0 ∧
      State.reset.outputEnabled = false := by decide +kernel

/-- A sample on and below the first position, and an advance of the wave track. -/
theorem witness_InterpolatedSampleLiesBetween :
    (track 0 0 0 511 0).inc.toInt < 512 ∧ 513 % 512 ≠ 0 ∧ 512 ≤ (track 0 0 0 512 0).inc.toInt ∧
      0 ≤ (S32.ofInt 0).toInt ∧ (S32.ofInt (-1)).toInt < 0 ∧
      (waving (track 0 513 512 512 0)).advance 4 .wave
        ((waving (track 0 513 512 512 0)).voice 4).rollover =
          .ok (S32.ofInt 512, (waving (track 0 513 512 512 0)).setVoice 4
            { (waving (track 0 513 512 512 0)).voice 4 with wave := track 0 513 513 512 0x01#7 }) := by
  decide +kernel

/-- Voice 4 with a wave and a volume track, and one frame. -/
def framing (w v : Track) : State :=
  ({ waving w with acc := [⟨.ofRat 1, .ofRat 2⟩] } : State).setVoice 4 ⟨w, v, 3⟩

/-- Both tracks running; a negative position; a stopped wave track under a running ramp; a wave track that
stands at sample 1, one step short of `end`, under a held volume; and an overflow of either track. -/
theorem witness_VoiceFrameAddsTheScaledSample :
    let ok (r : Except Fault (S32 × State)) : Bool := match r with | .ok _ => true | .error _ => false
    let ramp := track 0 4096 512 64 0
    let fast := track 0 2147483647 2147483392 512 0
    (∀ w ∈ [track 0 4096 600 100 0, track (-9999) 4096 (-5) 100 0, track 0 513 512 0 0x01#7],
      let s := framing w ramp
      s.params.numerics = .exact ∧ s.acc[0]? = some ⟨.ofRat 1, .ofRat 2⟩ ∧
        (s.voice 4).vol.state &&& 0x03#7 = 0 ∧ ok (s.advance 4 .wave false) = true ∧
        ok (s.advance 4 .vol false) = true) ∧
    (let x := (framing (track 0 513 512 0 0) (track 0 0 0 0 0x03#7)).voice 4
     x.wave.state &&& 0x43#7 = 0 ∧ x.vol.state &&& 0x03#7 ≠ 0 ∧ x.wave.inc.toInt = 0 ∧
      0 ≤ x.wave.pos.toInt ∧ x.wave.pos.toInt < x.wave.endAt.toInt ∧ x.wave.pos.toInt % 512 = 0) ∧
    ok ((framing fast ramp).advance 4 .wave false) = false ∧
    ok ((framing ramp fast).advance 4 .wave false) = true ∧
    ok ((framing ramp fast).advance 4 .vol false) = false := by decide +kernel

/-- Voice 4 sounding from samples that have been written, its volume at full scale. -/
def sounding (w : Track) : State :=
  ({ playing with ram := [(1, 0x40#8), (2, 0x20#8), (3, 0xC0#8), (4, 0x10#8)] } : State).setCur
    ⟨w, track 0 0 (4095 * 512) 0 0x03#7, 0⟩

/-- A batch of two frames of a running voice, and the first voice that is not active. -/
theorem witness_SequencerRendersTheActiveVoicesThenOutputs :
    (∃ t, seqStep 2 (sounding (track 0 2048 512 512 0)) = .next t) ∧
      (sounding (track 0 2048 512 512 0)).activeVoices ≤ (16 : Fin 32).val := by
  refine ⟨?_, by decide +kernel⟩
  have h : (left (seqStep 2 (sounding (track 0 2048 512 512 0))) State.out) =
      some [.audioPush [(16384#16, 0#16), (8192#16, 0#16)]] := by decide +kernel
  unfold left at h
  split at h
  · exact ⟨_, ‹_›⟩
  · cases h

/-- Both ways: a batch that completes, and the singles of it. -/
theorem witness_OneBatchEqualsSingleFrames :
    left (seqStep 2 (sounding (track 0 1536 512 512 0x20#7)))
      (fun t => (t.cur.wave.pos.toInt, t.waveState, t.status)) = some (1536, 0x10#32, 4) ∧
    left (seqSingly 2 (sounding (track 0 1536 512 512 0x20#7)))
      (fun t => (t.cur.wave.pos.toInt, t.waveState)) = some (1536, 0x10#32) := by decide +kernel

theorem witness_OutputNeverExceedsFullScale :
    ({ playing with acc := [⟨.ofRat 32767, .ofRat 32768⟩] } : State).params.numerics = .exact := rfl

/-! #### DMA, timers, the machine -/

/-- A state that a `DMA` step of no bytes leaves as it is. -/
def pumping : State := { State.reset with dmaScheduled := true, dmaCtrl := 1#8 }

/-- The channel masked, the bridge disabled, both open; and a weakly fair run, in which `DMA` steps forever. -/
theorem witness_DmaGate :
    (pumping.dmaScheduled = true ∧ pumping.dmaCtrl.getLsbD 0 = true ∧
      ({ playing with dmaScheduled := true } : State).dmaScheduled = true ∧
      ({ playing with dmaScheduled := true } : State).dmaCtrl.getLsbD 0 = false ∧
      (Vector.replicate 8 (⟨true, []⟩ : HostChannel))[pumping.dmaChannel].masked = true ∧
      (Vector.replicate 8 (⟨false, []⟩ : HostChannel))[pumping.dmaChannel].masked = false) ∧
    IsRun (fun _ => pumping) (fun _ => .dma (Vector.replicate 8 ⟨false, []⟩)) ∧
    WeaklyFair (fun _ => pumping) (fun _ => .dma (Vector.replicate 8 ⟨false, []⟩)) := by
  refine ⟨by decide +kernel, ⟨fun _ => rfl, fun _ => rfl⟩, ?_⟩
  intro a n ha he
  have h : pumping.enabled a = true := he n (le_refl n)
  cases a
  · exact absurd rfl ha
  · exact absurd h (by decide +kernel)
  · exact ⟨n, le_refl n, rfl⟩
  · exact absurd h (by decide +kernel)
  · exact absurd h (by decide +kernel)

/-- Wide on channel 4, the first on which it is effective; narrow on channel 3; and the last byte of RAM. -/
theorem witness_DmaRangeFault :
    (({ playing with dmaCtrl := 0x04#8, dmaChannel := 4 } : State).dmaCtrl.getLsbD 2 = true ∧
      4 ≤ ({ playing with dmaCtrl := 0x04#8, dmaChannel := 4 } : State).dmaChannel.val) ∧
    ¬ 4 ≤ ({ playing with dmaCtrl := 0x04#8, dmaChannel := 3 } : State).dmaChannel.val ∧
    left (dmaTransfer (List.replicate 16 0#8) { playing with dmaAddr := 0xFFFF#16 })
      State.dmaScheduled = some true ∧
    faultOf (dmaTransfer (List.replicate 17 0#8) { playing with dmaAddr := 0xFFFF#16 }) =
      some .dmaRange := by decide +kernel

/-- An upload that ends at the end of RAM. -/
theorem witness_DmaUploadStoresTheBytes :
    let s : State := { playing with dmaCtrl := 0xE1#8, dmaAddr := 0xFFFF#16 }
    s.dmaCtrl.getLsbD 1 = false ∧
      (dmaBase s.dmaCtrl s.dmaChannel s.dmaAddr).toNat + (List.replicate 16 0x80#8).length ≤
        0x100000 := by decide +kernel

/-- A download that ends at the end of RAM, and a round trip. -/
theorem witness_DmaRoundTripIsIdentity :
    (let s : State := { playing with dmaCtrl := 0xA3#8, dmaAddr := 0xFFFF#16 }
     s.dmaCtrl.getLsbD 1 = true ∧ (dmaBase s.dmaCtrl s.dmaChannel s.dmaAddr).toNat +
        (List.replicate 16 0#8).length ≤ 0x100000) ∧
    let s : State := { playing with dmaCtrl := 0x21#8, dmaAddr := 0x0040#16 }
    s.dmaCtrl.getLsbD 1 = false ∧ s.dmaCtrl.getLsbD 7 = false ∧
      (∃ t, dmaTransfer [1#8, 2#8] s = .next t) ∧ [0#8, 0#8].length = [1#8, 2#8].length ∧
      (0x03#8).getLsbD 1 = true ∧ (0x03#8).getLsbD 2 = s.dmaCtrl.getLsbD 2 := by
  refine ⟨by decide +kernel, by decide +kernel, by decide +kernel, ⟨_, rfl⟩, by decide +kernel,
    by decide +kernel, by decide +kernel⟩

theorem witness_TimerExpiry :
    State.reset.timer1.counting = false ∧ State.reset.timer2.counting = false ∧
      ({ playing with timer1.counting := true } : State).timer1.counting = true ∧
      ({ playing with timer2.counting := true } : State).timer2.counting = true := by decide +kernel

/-- A sound state that a command takes to a next one. -/
theorem witness_EveryStepKeepsTheInvariant :
    let s : State := { playing with
      activeVoices := 16, activeVoiceMask := maskOf 16, waveState := 0x208#32, status := 0
      inbox := [.command [0x8F#8], .seq 3] }
    s.Inv ∧ ∃ t, step s = .next t :=
  ⟨playing_inv (by decide) _ _ _, _, rfl⟩

/-- A track overflow, a DMA range fault, and the two refusals of a step. -/
theorem witness_OnlyTheNamedStops :
    faultOf (step { waving (track 0 2147483647 2147483392 512 0) with inbox := [.seq 1] }) =
      some .trackOverflow ∧
    faultOf (step { playing with
      dmaScheduled := true, dmaCtrl := 1#8, dmaAddr := 0xFFFF#16
      inbox := [.dma (Vector.replicate 8 ⟨false, List.replicate 17 0#8⟩)] }) = some .dmaRange ∧
    (refusalOf (step { playing with inbox := [.command []] }) = some .malformedCommand ∧
      decode [] = .error .malformed) ∧
    (refusalOf (step { playing with inbox := [.bus ⟨false, true, 0x302, 0⟩] }) = some .wideAccess ∧
      decodeTransaction playing.params.portBase ⟨false, true, 0x302, 0⟩ = .error .wideAccess) ∧
    Instr.wellFormed (.outbVoiceIndex 0xFF#16) = true ∧
    refusalOf (step { playing with inbox := [.command (encode (.outbVoiceIndex 0xFF#16))] }) = none := by
  decide +kernel

end Sys2Proof.Tests
end

/-! ### How a step reaches the meaning of a command -/

namespace Sys2Proof.Machine

section StepRules

variable {s : State} {a : AgentStep} {rest : List AgentStep} {bytes : List Byte} {i : Instr}

/-- No agent steps where the inbox is empty (log 1). -/
theorem step_of_inbox_nil (h : s.inbox = []) : step s = .next s := by
  simp only [step, nextStep, h]

/-- The head of the inbox is taken, and its agent steps (`00_scope.md` R8, log 1). -/
theorem step_of_inbox_cons (h : s.inbox = a :: rest) :
    step s = agentStep a { s with inbox := rest } := by
  simp only [step, nextStep, h]

/-- The reply is cleared before the command runs (log 3). -/
theorem hostCommand_of_decode (h : decode bytes = .ok i) (s : State) :
    hostCommand bytes s = exec i { s with reply := .none } := by
  simp only [hostCommand, h, runDecoded]

theorem step_command_of_decode (hin : s.inbox = .command bytes :: rest)
    (hdec : decode bytes = .ok i) :
    step s = exec i { s with inbox := rest, reply := .none } :=
  calc step s
      = agentStep (.command bytes) { s with inbox := rest } := step_of_inbox_cons hin
    _ = hostCommand bytes { s with inbox := rest } := rfl
    _ = exec i { s with inbox := rest, reply := .none } := hostCommand_of_decode hdec _

/-- A word of the opcode table is a command exactly where the bytes it is laid out as decode to it. -/
theorem decodeTableWord_eq_some {nbits w : Nat} :
    decodeTableWord nbits w = some i ↔ decode (tableBytes nbits w) = .ok i := by
  unfold decodeTableWord
  cases decode (tableBytes nbits w) with
  | ok j => simp only [Option.some.injEq, Except.ok.injEq]
  | error r => simp only [reduceCtorEq]

@[simp] theorem withFetchWord_inbox (s : State) (nbits w : Nat) :
    (s.withFetchWord nbits w).inbox = .command (tableBytes nbits w) :: s.inbox := rfl

/-- The word that `withFetchWord` places is consumed by its own step: what its command runs on is the
state it was placed in, but for the cleared reply. -/
theorem step_withFetchWord {nbits w : Nat} (h : decodeTableWord nbits w = some i) (s : State) :
    step (s.withFetchWord nbits w) = exec i { s with reply := .none } :=
  step_command_of_decode (withFetchWord_inbox s nbits w) (decodeTableWord_eq_some.mp h)

end StepRules

/-- Settles O4: the rule of `step` for each shape of the inbox. -/
theorem stepRunsTheDecodedCommand : Obligations.StepRunsTheDecodedCommand :=
  ⟨fun _ hnil => step_of_inbox_nil hnil,
    fun _ _ _ hcons => step_of_inbox_cons hcons,
    fun _ _ _ _ hin hdec => step_command_of_decode hin hdec,
    fun s _ _ _ hword => step_withFetchWord hword s⟩

end Sys2Proof.Machine

/-! ### The state at power-on (`10_state.md` R46) -/

namespace Sys2Proof.Machine

@[simp] theorem State.powerOn_voice (p : Params) (v : Fin 32) :
    (State.powerOn p).voice v = Voice.powerOn := by
  simp only [State.voice, State.powerOn, Fin.getElem_fin, Vector.getElem_replicate]

/-- Settles O57: the voices are 32 copies of one, and every other piece is written out in
`State.powerOn`. -/
theorem powerOnState : Obligations.PowerOnState := fun p =>
  ⟨State.powerOn_voice p, by and_intros <;> rfl⟩

/-- Zero rates give zero increments, and the bound byte 0 gives zero bounds. -/
theorem Voice.sound_powerOn : Voice.powerOn.Sound where
  waveInc := rfl
  volRate := rfl
  volInc := rfl
  volStart := ⟨0, rfl⟩
  volEnd := ⟨0, rfl⟩

theorem State.inv_powerOn (p : Params) : (State.powerOn p).Inv where
  count := .inl rfl
  mask := rfl
  irq := BitVec.zero_and
  ram := State.wf_powerOn p
  acc := rfl
  voices v := (State.powerOn_voice p v).symm ▸ Voice.sound_powerOn

/-- Settles O58. -/
theorem invariantHoldsAtPowerOn : Obligations.InvariantHoldsAtPowerOn := State.inv_powerOn

/-! ### What the state's operations do to the invariant -/

/-! #### The unused bits of `irq_status` (`10_state.md` R30) -/

/-- Acknowledging bits sets none. -/
theorem unusedBits_and {b : Byte} (h : b &&& 0x13#8 = 0) (m : Byte) : b &&& m &&& 0x13#8 = 0 := by
  rw [BitVec.and_assoc, BitVec.and_comm m, ← BitVec.and_assoc, h]
  exact BitVec.zero_and

/-- Raising bits that are in use sets no other. -/
theorem unusedBits_or {b m : Byte} (h : b &&& 0x13#8 = 0) (hm : m &&& 0x13#8 = 0) :
    (b ||| m) &&& 0x13#8 = 0 := by
  rw [BitVec.and_comm, BitVec.and_or_distrib_left, BitVec.and_comm _ b, BitVec.and_comm _ m,
    h, hm]
  exact BitVec.or_zero

/-! #### Sound voices -/

/-- The flags of a track are not among what soundness speaks of. -/
theorem Voice.Sound.setFlags {x : Voice} (h : x.Sound) (axis : Axis) (f : TrackFlags) :
    (x.setTrack axis { x.track axis with state := f }).Sound := by
  cases axis <;> exact { h with }

/-- A wave track whose increment is that of its rate leaves the voice sound. -/
theorem Voice.Sound.setWave {x : Voice} (h : x.Sound) {t : Track} (ht : t.inc = waveIncrement t.rate) :
    ({ x with wave := t } : Voice).Sound :=
  { h with waveInc := ht }

/-- `Prepare` writes positions, flags and pan only (`70_reset_and_hazards.md` R403). -/
theorem Voice.Sound.prepared {x : Voice} (h : x.Sound) (p : S32) : (x.prepared p).Sound :=
  { h with }

/-- The byte of a zero-extended byte. -/
theorem extractByte_setWidth (b : Byte) : (b.setWidth 16).extractLsb' 0 8 = b := by
  apply BitVec.eq_of_toNat_eq
  have := b.isLt
  simp only [BitVec.extractLsb'_toNat, BitVec.toNat_setWidth, Nat.shiftRight_zero]
  omega

/-- The rate byte and the increment it gives (`44_voice_registers.md` R217). -/
theorem Voice.Sound.setVolRate {x : Voice} (h : x.Sound) (b : Byte) :
    ({ x with vol := { x.vol with rate := b.setWidth 16, inc := Machine.volInc b } } : Voice).Sound :=
  { h with
    volRate := congrArg (BitVec.setWidth 16) (extractByte_setWidth b).symm
    volInc := congrArg Machine.volInc (extractByte_setWidth b).symm }

/-! #### States -/

/-- What the invariant speaks of. -/
def State.invFields (s : State) : Nat × Word × Byte × Memory × List Frame × Vector Voice 32 :=
  (s.activeVoices, s.activeVoiceMask, s.irqStatus, s.ram, s.acc, s.voices)

namespace State.Inv

variable {s t : State}

/-- A state that agrees on what the invariant speaks of satisfies it. -/
theorem of_invFields_eq (h : s.Inv) (e : t.invFields = s.invFields) : t.Inv := by
  simp only [invFields, Prod.mk.injEq] at e
  obtain ⟨hn, hm, hi, hr, ha, hv⟩ := e
  constructor
  case voices => simpa only [State.voice, hv] using h.voices
  case ram => rw [hr]; exact h.ram
  all_goals simp only [hn, hm, hi, ha, h.count, h.mask, h.irq, h.acc]

theorem setReply (h : s.Inv) (r : Reply) : ({ s with reply := r } : State).Inv := h.of_invFields_eq rfl

theorem setInbox (h : s.Inv) (b : List AgentStep) : ({ s with inbox := b } : State).Inv :=
  h.of_invFields_eq rfl

theorem setTimer1 (h : s.Inv) (x : Timer) : ({ s with timer1 := x } : State).Inv := h.of_invFields_eq rfl

theorem setTimer2 (h : s.Inv) (x : Timer) : ({ s with timer2 := x } : State).Inv := h.of_invFields_eq rfl

theorem cur (h : s.Inv) : s.cur.Sound := h.voices _

theorem setIrqStatus (h : s.Inv) {b : Byte} (hb : b &&& 0x13#8 = 0) :
    ({ s with irqStatus := b } : State).Inv :=
  { h with irq := hb }

theorem checkIrq (h : s.Inv) : s.checkIrq.Inv :=
  h.of_invFields_eq (by rw [State.checkIrq_eq]; rfl)

theorem checkVoiceIrq (h : s.Inv) : s.checkVoiceIrq.Inv := by
  rw [State.checkVoiceIrq_eq]
  exact (h.setIrqStatus (s.aggregatedStatus_unused h.irq)).of_invFields_eq rfl

theorem setPending (h : s.Inv) (axis : Axis) (w : Word) : (s.setPending axis w).Inv := by
  cases axis <;> exact h.of_invFields_eq rfl

theorem setVoice (h : s.Inv) (v : Fin 32) {x : Voice} (hx : x.Sound) : (s.setVoice v x).Inv where
  count := h.count
  mask := h.mask
  irq := h.irq
  ram := h.ram
  acc := h.acc
  voices u := by
    by_cases hu : u = v
    · rw [hu, State.voice_setVoice]
      exact hx
    · rw [State.voice_setVoice_ne s v u x hu]
      exact h.voices u

theorem setCur (h : s.Inv) {x : Voice} (hx : x.Sound) : (s.setCur x).Inv := h.setVoice _ hx

theorem writeCtrl (h : s.Inv) (axis : Axis) (b : Byte) : (s.writeCtrl axis b).Inv := by
  have written := (h.setPending axis (controlPending (s.pending axis) s.voiceIndex b)).setCur
    (h.cur.setFlags axis (controlFlags b))
  obtain ⟨-, e⟩ | ⟨-, e⟩ := State.writeCtrl_cases s axis b <;> rw [e]
  · exact written
  · exact written.checkVoiceIrq

theorem writeRam (h : s.Inv) (a : RamAddr) (b : Byte) : (s.writeRam a b).Inv :=
  { h with ram := State.wf_writeRam h.ram a b }

theorem writeBytes (h : s.Inv) (a : RamAddr) (bs : List Byte) : (s.writeBytes a bs).Inv := by
  rw [State.writeBytes_eq]
  exact { h with ram := State.wf_writeBytes h.ram a bs }

/-- A channel select sets the interrupt line or the DMA channel (`45_global_registers.md` R264). -/
theorem selectChannel (h : s.Inv) (i : BitVec 3) : (s.selectChannel i).Inv := by
  unfold State.selectChannel
  split <;> exact h.of_invFields_eq rfl

/-! #### Run states -/

theorem stop (h : s.Inv) : s.stop.Inv :=
  { h with count := .inl rfl, mask := rfl, irq := BitVec.zero_and }

theorem prepare (h : s.Inv) : s.prepare.Inv := by
  have sound (v : Fin 32) : (s.prepare.voice v).Sound := by
    rw [State.prepare_voice]
    exact (h.voices v).prepared _
  unfold State.prepare at sound ⊢
  -- Only that the new voices are sound matters, and they are costly to evaluate.
  generalize Vector.ofFn _ = voices at sound ⊢
  exact { h with voices := sound }

theorem runAction (h : s.Inv) (run : Nat) : (s.runAction run).Inv := by
  obtain ⟨-, e⟩ | ⟨-, e⟩ | ⟨-, -, e⟩ | ⟨-, -, e⟩ := State.runAction_cases s run <;> rw [e]
  · exact h.stop
  · exact h.prepare
  · exact h.of_invFields_eq rfl
  · exact h

/-! #### The other agents -/

theorem dmaFinish (h : s.Inv) : s.dmaFinish.Inv := by
  unfold State.dmaFinish
  split
  · exact (h.setIrqStatus (unusedBits_or h.irq rfl)).checkIrq.of_invFields_eq rfl
  · exact h.of_invFields_eq rfl

theorem timerIrq (h : s.Inv) (raise : Bool) {bit : Byte} (hb : bit &&& 0x13#8 = 0) :
    (s.timerIrq raise bit).Inv := by
  unfold State.timerIrq
  split
  · exact (h.setIrqStatus (unusedBits_or h.irq hb)).checkIrq
  · exact h

/-- The output stage restores the empty accumulator after whatever the voice engine wrote. -/
theorem output (h : s.Inv) {acc : List Frame} (hw : SeqWrites { s with acc := acc } t)
    (hv : ∀ v, (t.voice v).Sound) : t.output.Inv := by
  obtain ⟨_, _, _, _, _, rfl⟩ := hw
  rw [State.output_eq]
  exact { h with acc := rfl, voices := hv }

end State.Inv

/-! ### Every step keeps the invariant -/

/-- The answer satisfies the invariant if it is a next state. -/
def NextInv (r : Result) : Prop := ∀ t, r = .next t → t.Inv

@[simp] theorem nextInv_next {t : State} : NextInv (.next t) ↔ t.Inv :=
  ⟨fun h => h t rfl, fun h _ e => Host.Outcome.next.inj e ▸ h⟩

@[simp] theorem nextInv_fault (e : Fault) : NextInv (.fault e) := by
  intro _ h
  cases h

@[simp] theorem nextInv_refused (e : Refusal) : NextInv (.refused e) := by
  intro _ h
  cases h

theorem nextInv_withReply {r : Result} (h : NextInv r) (f : Reply → Reply) : NextInv (withReply f r) := by
  cases r with
  | next t => exact nextInv_next.mpr ((nextInv_next.mp h).of_invFields_eq rfl)
  | fault e => exact nextInv_fault e
  | refused e => exact nextInv_refused e

/-- A voice register write keeps the invariant if it does with a voice selected. -/
theorem nextInv_voiceWrite {s t : State} (hs : s.Inv) (ht : t.Inv) : NextInv (voiceWrite s t) := by
  rw [voiceWrite_eq, nextInv_next]
  split
  · exact ht
  · exact hs

/-! #### Host commands -/

/-- The data ports, which run the command that `selected_register` names (`45_global_registers.md` R273 to
R275). -/
def isDataPort : Instr → Bool
  | .outwRegData _ | .outbRegDataHi _ | .inbRegDataLo | .inwRegData | .inbRegDataHi => true
  | _ => false

/-- A register write command is no data port. -/
theorem isDataPort_of_decode_encodeRegw {id : Byte} {d : Half} {i : Instr}
    (h : decode (encodeRegw id d) = .ok i) : isDataPort i = false := by
  simp only [decode, encodeRegw, decodeRegw] at h
  split at h <;> cases h <;> rfl

/-- A register read command is no data port. -/
theorem isDataPort_of_decode_regr {id : Byte} {i : Instr} (h : decode [id] = .ok i) :
    isDataPort i = false := by
  simp only [decode, decodeRegr] at h
  split at h <;> cases h <;> rfl

/-- A command that is no data port keeps the invariant: it leaves alone what the invariant speaks of, or it
is one of the operations above. -/
theorem nextInv_exec_of_not_isDataPort {s : State} (hs : s.Inv) {i : Instr} (hi : isDataPort i = false) :
    NextInv (exec i s) := by
  cases i with
  | outwRegData | outbRegDataHi | inbRegDataLo | inwRegData | inbRegDataHi => cases hi
  | outbMixCtrl | outbAdlibCmd | outbVoiceIndex | outbRegSelect | outbRegDataLo
  | inbIrqStatus | inbTimerStatus | inbAdlibCmdRb | inbVoiceIndex | inbRegSelect | inbDramData
  | dmaAddr | dramAddrA | dramAddrB | timer1Value | timer2Value | sampleCtrl
  | rdDmaAddr | rdTimerCtrl | rdSampleCtrl | rdWaveCtrl | rdWaveRate | rdWaveStartMsw | rdWaveStartLsw
  | rdWaveEndMsw | rdWaveEndLsw | rdVolRate | rdVolStart | rdVolEnd | rdVolCurrent | rdWavePosMsw
  | rdWavePosLsw | rdPan | rdVolCtrl =>
    exact nextInv_next.mpr (hs.of_invFields_eq rfl)
  | outbTimerCmd => exact nextInv_next.mpr (by split <;> exact hs.of_invFields_eq rfl)
  | outbChanSelect =>
    refine nextInv_next.mpr ?_
    split
    · exact (hs.selectChannel _).of_invFields_eq rfl
    · exact hs
  | outbDramData => exact nextInv_next.mpr (hs.writeRam _ _)
  | waveCtrl => exact nextInv_voiceWrite hs (hs.writeCtrl .wave _)
  | volCtrl => exact nextInv_voiceWrite hs (hs.writeCtrl .vol _)
  | waveRate => exact nextInv_voiceWrite hs (hs.setCur (hs.cur.setWave rfl))
  | waveStartMsw | waveStartLsw | waveEndMsw | waveEndLsw | wavePosMsw | wavePosLsw =>
    exact nextInv_voiceWrite hs (hs.setCur (hs.cur.setWave hs.cur.waveInc))
  | volRate => exact nextInv_voiceWrite hs (hs.setCur (hs.cur.setVolRate _))
  | volStart => exact nextInv_voiceWrite hs (hs.setCur { hs.cur with volStart := ⟨_, rfl⟩ })
  | volEnd => exact nextInv_voiceWrite hs (hs.setCur { hs.cur with volEnd := ⟨_, rfl⟩ })
  | volCurrent | pan => exact nextInv_voiceWrite hs (hs.setCur { hs.cur with })
  | activeVoices d =>
    exact nextInv_next.mpr { hs with count := .inr (requestedVoices_bounds d), mask := rfl }
  | dmaCtrl => exact nextInv_next.mpr ((hs.setIrqStatus (unusedBits_and hs.irq _)).of_invFields_eq rfl)
  | timerCtrl =>
    refine nextInv_next.mpr (State.Inv.checkIrq (State.Inv.of_invFields_eq (hs.setIrqStatus ?_) rfl))
    exact unusedBits_and (unusedBits_and hs.irq _) _
  | runtimeCtrl d => exact nextInv_next.mpr ((hs.runAction (runState d)).of_invFields_eq rfl)
  | rdDmaCtrl =>
    exact nextInv_next.mpr ((hs.setIrqStatus (unusedBits_and hs.irq _)).checkIrq.of_invFields_eq rfl)
  | rdVoiceIrq =>
    exact nextInv_next.mpr
      (((hs.setPending .vol _).setPending .wave _).checkVoiceIrq.of_invFields_eq rfl)

/-- A commit runs a register write command, or nothing. -/
theorem nextInv_regWrite {s : State} (hs : s.Inv) : NextInv (regWrite s) := by
  obtain ⟨i, hi, e⟩ | ⟨-, e⟩ := regWrite_cases s <;> rw [e]
  · exact nextInv_exec_of_not_isDataPort hs (isDataPort_of_decode_encodeRegw hi)
  · exact nextInv_next.mpr hs

/-- A data-port read runs a register read command, or delivers the data latch. -/
theorem nextInv_regRead {s : State} (hs : s.Inv) : NextInv (regRead s) := by
  obtain ⟨i, hi, e⟩ | ⟨-, e⟩ := regRead_cases s <;> rw [e]
  · exact nextInv_exec_of_not_isDataPort hs (isDataPort_of_decode_regr hi)
  · exact nextInv_next.mpr (hs.of_invFields_eq rfl)

theorem nextInv_exec {s : State} (hs : s.Inv) (i : Instr) : NextInv (exec i s) := by
  cases hi : isDataPort i with
  | false => exact nextInv_exec_of_not_isDataPort hs hi
  | true =>
    cases i with
    | outwRegData | outbRegDataHi => exact nextInv_regWrite (hs.of_invFields_eq rfl)
    | inwRegData => exact nextInv_regRead hs
    | inbRegDataLo | inbRegDataHi => exact nextInv_withReply (nextInv_regRead hs) _
    | _ => cases hi

theorem nextInv_runRejected {s : State} (hs : s.Inv) (r : Reject) : NextInv (runRejected r s) := by
  cases r with
  | unlistedWrite | unlistedRead8 | unlistedRead16 | unknownRegisterWrite | unknownRegisterRead =>
    exact nextInv_next.mpr (hs.of_invFields_eq rfl)
  | wideAccess | malformed => exact nextInv_refused _

theorem nextInv_runDecoded {s : State} (hs : s.Inv) (d : Except Reject Instr) :
    NextInv (runDecoded d s) := by
  cases d with
  | ok i => exact nextInv_exec hs i
  | error r => exact nextInv_runRejected hs r

/-! #### The other agents -/

/-- The voice engine keeps every voice sound, and the output stage empties the accumulator. -/
theorem nextInv_seqStep {s : State} (hs : s.Inv) (n : Nat) : NextInv (seqStep n s) := by
  intro t h
  obtain ⟨-, rfl⟩ | ⟨u, -, hu, rfl⟩ := seqStep_cases h
  · exact hs
  · exact (hs.output (State.voicesBatch_writes hu) (State.voicesBatch_sound hu hs.voices)).checkVoiceIrq

theorem nextInv_dmaTransfer {s : State} (hs : s.Inv) (bytes : List Byte) :
    NextInv (dmaTransfer bytes s) := by
  obtain ⟨-, e⟩ | ⟨-, -, e⟩ | ⟨-, -, e⟩ := dmaTransfer_cases bytes s <;> rw [e]
  · exact nextInv_fault _
  · exact nextInv_next.mpr (State.Inv.dmaFinish (hs.of_invFields_eq rfl))
  · exact nextInv_next.mpr (hs.writeBytes _ _).dmaFinish

theorem nextInv_dmaStep {s : State} (hs : s.Inv) (channels : Vector HostChannel 8) :
    NextInv (dmaStep channels s) := by
  obtain ⟨-, e⟩ | ⟨-, -, e⟩ | ⟨-, -, -, e⟩ := dmaStep_cases channels s <;> rw [e]
  · exact nextInv_next.mpr hs
  · exact nextInv_next.mpr (hs.of_invFields_eq rfl)
  · exact nextInv_dmaTransfer hs _

theorem nextInv_timer1Step {s : State} (hs : s.Inv) : NextInv (timer1Step s) := by
  refine nextInv_next.mpr ?_
  split
  · exact (hs.setTimer1 _).timerIrq (bit := irqTimer1) _ (by decide)
  · exact hs

theorem nextInv_timer2Step {s : State} (hs : s.Inv) : NextInv (timer2Step s) := by
  refine nextInv_next.mpr ?_
  split
  · exact (hs.setTimer2 _).timerIrq (bit := irqTimer2) _ (by decide)
  · exact hs

theorem nextInv_agentStep {s : State} (hs : s.Inv) (a : AgentStep) : NextInv (agentStep a s) := by
  cases a with
  | command bytes => exact nextInv_runDecoded (hs.setReply .none) _
  | bus t => exact nextInv_runDecoded (hs.setReply .none) _
  | seq n => exact nextInv_seqStep hs n
  | dma channels => exact nextInv_dmaStep hs channels
  | timer1 => exact nextInv_timer1Step hs
  | timer2 => exact nextInv_timer2Step hs

theorem nextInv_step {s : State} (hs : s.Inv) : NextInv (step s) := by
  cases hin : s.inbox with
  | nil =>
    rw [step_of_inbox_nil hin]
    exact nextInv_next.mpr hs
  | cons a rest =>
    rw [step_of_inbox_cons hin]
    exact nextInv_agentStep (hs.setInbox rest) a

/-- Settles O59: the inbox names one agent, and the step of each agent keeps the invariant. -/
theorem everyStepKeepsTheInvariant : Obligations.EveryStepKeepsTheInvariant :=
  fun _ t hs h => nextInv_step hs t h

end Sys2Proof.Machine

/-! ### Register commits by bytes and in one (`20_memory.md` R61) -/

namespace Sys2Proof.Machine

/-- The byte that the low data port takes from a halfword. -/
theorem byteOf_and_low (v : Half) : byteOf (v &&& 0x00FF#16) = lowByte v := by
  apply BitVec.eq_of_getLsbD_eq
  intro k hk
  have mask : (0x00FF#16).getLsbD k = true := by interval_cases k <;> rfl
  rw [getLsbD_byteOf _ hk, BitVec.getLsbD_and, mask, Bool.and_true]
  exact (getLsbD_byteOf v hk).symm

/-- The byte that the high data port takes from a halfword shifted down. -/
theorem byteOf_shiftRight (v : Half) : byteOf (v >>> 8) = highByte v :=
  (lowByte_eq_setWidth _).trans (highByte_eq_setWidth v).symm

/-- A commit completes, whatever the selected register (`45_global_registers.md` R277, R279). -/
theorem regWrite_completes (s : State) : ∃ t, regWrite s = .next t := by
  unfold regWrite
  split <;> exact ⟨_, rfl⟩

/-- The high data port commits the low byte that the low data port latched; of the latch before them nothing
is left (`45_global_registers.md` R272, R274: decision D5). -/
theorem exec_outbRegDataHi_of_low (hi lo : Half) (s : State) :
    exec (.outbRegDataHi hi)
        { s with registerData := joinBytes (highByte s.registerData) (byteOf lo) } =
      exec (.outwRegData (joinBytes (byteOf hi) (byteOf lo))) s :=
  congrArg (fun b => regWrite { s with registerData := joinBytes (byteOf hi) b })
    (lowByte_joinBytes _ _)

/-- Settles O13: the two bytes of a halfword, latched one after the other, are that halfword, so that both
ways run the same commit. -/
theorem narrowCommitEqualsWideCommit : Obligations.NarrowCommitEqualsWideCommit := by
  intro s v
  obtain ⟨u, hu⟩ := regWrite_completes { s with registerData := v }
  refine ⟨_, u, rfl, ?_, hu⟩
  rw [exec_outbRegDataHi_of_low, byteOf_shiftRight, byteOf_and_low, joinBytes_high_low]
  exact hu

/-! ### Reads without side effect (`20_memory.md` R67) -/

/-- The answer is a next state that differs from `s` in the reply at most. -/
def ChangesReplyOnly (s : State) (a : Result) : Prop := ∃ r, a = .next { s with reply := r }

theorem changesReplyOnly_answerByte (s : State) (b : Byte) : ChangesReplyOnly s (.next (s.answerByte b)) :=
  ⟨_, rfl⟩

theorem changesReplyOnly_answerHalf (s : State) (h : Half) : ChangesReplyOnly s (.next (s.answerHalf h)) :=
  ⟨_, rfl⟩

theorem changesReplyOnly_voiceRead (s : State) (noVoice r : Half) :
    ChangesReplyOnly s (voiceRead s noVoice r) := ⟨_, voiceRead_eq s noVoice r⟩

/-- Delivering a part of the reply changes the reply. -/
theorem ChangesReplyOnly.withReply {s : State} {a : Result} (h : ChangesReplyOnly s a)
    (f : Reply → Reply) : ChangesReplyOnly s (withReply f a) := by
  obtain ⟨r, rfl⟩ := h
  exact ⟨f r, rfl⟩

/-- The port reads but those of the data ports. -/
def plainPortReads : List Instr :=
  [.inbIrqStatus, .inbTimerStatus, .inbAdlibCmdRb, .inbVoiceIndex, .inbRegSelect, .inbDramData]

/-- The register reads but `RD_DMA_CTRL` and `RD_VOICE_IRQ`: the latches, and the registers of a voice. -/
def plainRegisterReads : List Instr :=
  [.rdDmaAddr, .rdTimerCtrl, .rdSampleCtrl, .rdWaveCtrl, .rdWaveRate, .rdWaveStartMsw, .rdWaveStartLsw,
    .rdWaveEndMsw, .rdWaveEndLsw, .rdVolRate, .rdVolStart, .rdVolEnd, .rdVolCurrent, .rdWavePosMsw,
    .rdWavePosLsw, .rdPan, .rdVolCtrl]

theorem exec_changesReplyOnly_of_plainPortRead {i : Instr} (hi : i ∈ plainPortReads) (s : State) :
    ChangesReplyOnly s (exec i s) := by
  simp only [plainPortReads, List.mem_cons, List.not_mem_nil, or_false] at hi
  obtain rfl | rfl | rfl | rfl | rfl | rfl := hi
  all_goals exact changesReplyOnly_answerByte s _

theorem exec_changesReplyOnly_of_plainRegisterRead {i : Instr} (hi : i ∈ plainRegisterReads) (s : State) :
    ChangesReplyOnly s (exec i s) := by
  simp only [plainRegisterReads, List.mem_cons, List.not_mem_nil, or_false] at hi
  obtain rfl | rfl | rfl | voice := hi
  iterate 3 exact changesReplyOnly_answerHalf s _
  rcases voice with rfl | rfl | rfl | rfl | rfl | rfl | rfl | rfl | rfl | rfl | rfl | rfl | rfl | rfl
  all_goals exact changesReplyOnly_voiceRead s _ _

/-- The register ids with a read rule name a plain register read, but for the two whose read acknowledges. -/
theorem decode_regr_cases {id : Byte} {i : Instr} (h : decode [id] = .ok i) :
    id = 0x41#8 ∨ id = 0x8F#8 ∨ i ∈ plainRegisterReads := by
  simp only [decode, decodeRegr] at h
  split at h <;> cases h
  all_goals
    rename_i hid
    rw [eq_ofNat_of_toNat hid]
    decide

/-- A data-port read runs a plain register read, or delivers the data latch. -/
theorem regRead_changesReplyOnly {s : State} (h41 : s.selectedRegister ≠ 0x41#8)
    (h8F : s.selectedRegister ≠ 0x8F#8) : ChangesReplyOnly s (regRead s) := by
  obtain ⟨i, hi, e⟩ | ⟨-, e⟩ := regRead_cases s <;> rw [e]
  · obtain h | h | h := decode_regr_cases hi
    · exact absurd h h41
    · exact absurd h h8F
    · exact exec_changesReplyOnly_of_plainRegisterRead h s
  · exact changesReplyOnly_answerHalf s _

/-- Settles O7: each read is a plain one, or a data-port read, which runs a plain one. -/
theorem otherReadsChangeOnlyTheReply : Obligations.OtherReadsChangeOnlyTheReply := by
  constructor
  · intro i hi s
    obtain h | h := List.mem_append.mp (show i ∈ plainPortReads ++ plainRegisterReads from hi)
    · exact exec_changesReplyOnly_of_plainPortRead h s
    · exact exec_changesReplyOnly_of_plainRegisterRead h s
  · intro i hi s h41 h8F
    have read := regRead_changesReplyOnly h41 h8F
    simp only [List.mem_cons, List.not_mem_nil, or_false] at hi
    obtain rfl | rfl | rfl := hi
    · exact read.withReply Reply.low
    · exact read
    · exact read.withReply Reply.high

end Sys2Proof.Machine

/-! ### The encoding (`30_encoding.md` R92, R96, R97) -/

namespace Sys2Proof

/-! #### The bytes of each format -/

@[simp] theorem decode_encodeBtw (hi val : Half) : decode (encodeBtw hi val) = decodeBtw hi val := by
  simp only [encodeBtw, decode, joinBytes_high_low]

@[simp] theorem decode_encodeRegw (id : Byte) (data : Half) :
    decode (encodeRegw id data) = decodeRegw id data := by
  simp only [encodeRegw, decode, joinBytes_high_low]

theorem encodeBtw_joinBytes (b0 b1 b2 b3 : Byte) :
    encodeBtw (joinBytes b3 b2) (joinBytes b1 b0) = [b0, b1, b2, b3] := by
  simp only [encodeBtw, lowByte_joinBytes, highByte_joinBytes]

theorem encodeRegw_joinBytes (id b0 b1 : Byte) : encodeRegw id (joinBytes b1 b0) = [b0, b1, id] := by
  simp only [encodeRegw, lowByte_joinBytes, highByte_joinBytes]

/-! #### The value field of a bus transaction word -/

/-- An 8-bit port write is a command exactly where bits 15:8 of its value are 0. -/
theorem portWrite8_eq_ok_iff {mk : Half → Instr} {val : Half} {i : Instr} :
    portWrite8 mk val = .ok i ↔ fitsByte val = true ∧ mk val = i := by
  unfold portWrite8
  cases fitsByte val <;> simp

/-- A port read is a command exactly where its value is 0. -/
theorem portRead_eq_ok_iff {j : Instr} {val : Half} {i : Instr} :
    portRead j val = .ok i ↔ val = 0 ∧ j = i := by
  unfold portRead
  by_cases h : val = 0
  · simp [h]
  · simp only [h, if_false, false_and, reduceCtorEq]

/-! #### Decoding what was encoded -/

theorem decode_encode {i : Instr} (hwf : i.wellFormed = true) : decode (encode i) = .ok i := by
  cases i with
  | outbMixCtrl v | outbAdlibCmd v | outbTimerCmd v | outbChanSelect v | outbVoiceIndex v
  | outbRegSelect v | outbRegDataLo v | outbRegDataHi v | outbDramData v =>
    exact (decode_encodeBtw _ v).trans (portWrite8_eq_ok_iff.mpr ⟨hwf, rfl⟩)
  | inbIrqStatus | inbTimerStatus | inbAdlibCmdRb | inbVoiceIndex | inbRegSelect | inbRegDataLo
  | inwRegData | inbRegDataHi | inbDramData =>
    exact (decode_encodeBtw _ 0).trans (portRead_eq_ok_iff.mpr ⟨rfl, rfl⟩)
  | outwRegData v => exact decode_encodeBtw _ v
  | waveCtrl d | waveRate d | waveStartMsw d | waveStartLsw d | waveEndMsw d | waveEndLsw d | volRate d
  | volStart d | volEnd d | volCurrent d | wavePosMsw d | wavePosLsw d | pan d | volCtrl d
  | activeVoices d | dmaCtrl d | dmaAddr d | dramAddrA d | dramAddrB d | timerCtrl d | timer1Value d
  | timer2Value d | sampleCtrl d | runtimeCtrl d =>
    exact decode_encodeRegw _ d
  | rdDmaCtrl | rdDmaAddr | rdTimerCtrl | rdSampleCtrl | rdWaveCtrl | rdWaveRate | rdWaveStartMsw
  | rdWaveStartLsw | rdWaveEndMsw | rdWaveEndLsw | rdVolRate | rdVolStart | rdVolEnd | rdVolCurrent
  | rdWavePosMsw | rdWavePosLsw | rdPan | rdVolCtrl | rdVoiceIrq =>
    rfl

/-- Settles O1: each format's bytes give its fields back, and the fields of a row name that row. -/
theorem decodeInvertsEncode : Obligations.DecodeInvertsEncode := fun _ hwf => decode_encode hwf

/-! #### Encoding what was decoded -/

/-- A command that is well formed and has these bytes for its encoding. -/
def IsEncodedAs (i : Instr) (bytes : List Byte) : Prop := i.wellFormed = true ∧ encode i = bytes

/-- A row of 8-bit writes, whose words have the upper half `n`, reads no word but those it writes. -/
theorem isEncodedAs_of_portWrite8 {mk : Half → Instr} {hi val : Half} {n : Nat} {i : Instr}
    (hn : hi.toNat = n) (h : portWrite8 mk val = .ok i)
    (row : fitsByte val = true → IsEncodedAs (mk val) (encodeBtw (BitVec.ofNat 16 n) val)) :
    IsEncodedAs i (encodeBtw hi val) := by
  obtain ⟨hfits, rfl⟩ := portWrite8_eq_ok_iff.mp h
  rw [eq_ofNat_of_toNat hn]
  exact row hfits

/-- A port read, whose word has the upper half `n`, is read from that one word, with the value 0. -/
theorem isEncodedAs_of_portRead {j : Instr} {hi val : Half} {n : Nat} {i : Instr}
    (hn : hi.toNat = n) (h : portRead j val = .ok i)
    (row : IsEncodedAs j (encodeBtw (BitVec.ofNat 16 n) 0)) :
    IsEncodedAs i (encodeBtw hi val) := by
  obtain ⟨rfl, rfl⟩ := portRead_eq_ok_iff.mp h
  rw [eq_ofNat_of_toNat hn]
  exact row

theorem isEncodedAs_of_decodeBtw {hi val : Half} {i : Instr} (h : decodeBtw hi val = .ok i) :
    IsEncodedAs i (encodeBtw hi val) := by
  unfold decodeBtw at h
  split at h
  case h_1 hn | h_4 hn | h_5 hn | h_7 hn | h_8 hn | h_10 hn | h_12 hn | h_14 hn | h_19 hn =>
    exact isEncodedAs_of_portWrite8 hn h fun hfits => ⟨hfits, rfl⟩
  case h_2 hn | h_3 hn | h_6 hn | h_9 hn | h_11 hn | h_15 hn | h_16 hn | h_17 hn | h_18 hn =>
    exact isEncodedAs_of_portRead hn h ⟨rfl, rfl⟩
  case h_13 hn =>
    cases h
    rw [eq_ofNat_of_toNat hn]
    exact ⟨rfl, rfl⟩
  case h_20 => cases h

theorem isEncodedAs_of_decodeRegw {id : Byte} {data : Half} {i : Instr}
    (h : decodeRegw id data = .ok i) : IsEncodedAs i (encodeRegw id data) := by
  unfold decodeRegw at h
  split at h <;> cases h
  all_goals
    rename_i hid
    rw [eq_ofNat_of_toNat hid]
    exact ⟨rfl, rfl⟩

theorem isEncodedAs_of_decodeRegr {id : Byte} {i : Instr} (h : decodeRegr id = .ok i) :
    IsEncodedAs i [id] := by
  unfold decodeRegr at h
  split at h <;> cases h
  all_goals
    rename_i hid
    rw [eq_ofNat_of_toNat hid]
    exact ⟨rfl, rfl⟩

/-- The number of bytes is the format, and within each format a row reads no more than it writes. -/
theorem isEncodedAs_of_decode {bytes : List Byte} {i : Instr} (h : decode bytes = .ok i) :
    IsEncodedAs i bytes := by
  unfold decode at h
  split at h
  next b0 b1 b2 b3 =>
    rw [← encodeBtw_joinBytes]
    exact isEncodedAs_of_decodeBtw h
  next b0 b1 id =>
    rw [← encodeRegw_joinBytes]
    exact isEncodedAs_of_decodeRegw h
  next id => exact isEncodedAs_of_decodeRegr h
  next => cases h

/-- Settles O2. -/
theorem decodedBytesAreTheEncoding : Obligations.DecodedBytesAreTheEncoding :=
  fun _ _ h => isEncodedAs_of_decode h

/-- Settles O3: six words, each laid out and decoded. -/
theorem exampleWordsOfTheSpecDecode : Obligations.ExampleWordsOfTheSpecDecode :=
  ⟨rfl, rfl, rfl, rfl, rfl, rfl⟩

end Sys2Proof

/-! ### Bus transactions (`30_encoding.md` R90 to R93, `45_global_registers.md` R276) -/

namespace Sys2Proof

/-! #### Port numbers and offsets (`30_encoding.md` R91) -/

theorem portOffset_eq_some {base port offset : Nat} (hport : port + 0x200 = offset + base)
    (hoff : offset < 0x1000) : portOffset base port = some offset := by
  unfold portOffset
  rw [if_pos (by omega)]
  congr 1
  omega

theorem portOffset_eq_none {base port : Nat} (h : port + 0x200 < base ∨ base + 0x1000 ≤ port + 0x200) :
    portOffset base port = none := by
  unfold portOffset
  rw [if_neg (by omega)]

/-! #### The upper half of a transaction's word -/

/-- The fields of `30_encoding.md` R92 lie side by side. -/
theorem transactionHi_toNat (t : Transaction) {offset : Nat} (hoff : offset < 0x1000) :
    (transactionHi t offset).toNat = t.write.toNat * 0x8000 + t.wide.toNat * 0x4000 + offset := by
  have beside (k : Nat) : 2 ^ 12 * k + offset = 2 ^ 12 * k ||| offset := Nat.two_pow_add_eq_or_of_lt hoff k
  have hmod : offset % 65536 = offset := Nat.mod_eq_of_lt (by omega)
  cases hw : t.write <;> cases hd : t.wide
  · simpa [transactionHi, hw, hd] using hmod
  · simpa [transactionHi, hw, hd, hmod] using (beside 4).symm
  · simpa [transactionHi, hw, hd, hmod] using (beside 8).symm
  · simpa [transactionHi, hw, hd, hmod] using (beside 12).symm

section Fields

variable (t : Transaction) {offset : Nat} (hoff : offset < 0x1000)
include hoff

theorem transactionHi_dir : (transactionHi t offset).getLsbD 15 = t.write := by
  have hwide := t.wide.toNat_lt
  have hwrite := t.write.toNat_lt
  have hbit : (transactionHi t offset).toNat / 2 ^ 15 % 2 = t.write.toNat := by
    rw [transactionHi_toNat t hoff]
    omega
  simp only [BitVec.getLsbD, Nat.testBit_eq_decide_div_mod_eq, hbit, Bool.toNat_eq_one, Bool.decide_eq_true]

theorem transactionHi_width : (transactionHi t offset).getLsbD 14 = t.wide := by
  have hwide := t.wide.toNat_lt
  have hbit : (transactionHi t offset).toNat / 2 ^ 14 % 2 = t.wide.toNat := by
    rw [transactionHi_toNat t hoff]
    omega
  simp only [BitVec.getLsbD, Nat.testBit_eq_decide_div_mod_eq, hbit, Bool.toNat_eq_one, Bool.decide_eq_true]

theorem transactionHi_zero : (transactionHi t offset).extractLsb' 12 2 = 0 := by
  apply BitVec.eq_of_toNat_eq
  rw [BitVec.extractLsb'_toNat, transactionHi_toNat t hoff, Nat.shiftRight_eq_div_pow]
  change _ = 0
  omega

theorem transactionHi_offset : ((transactionHi t offset).extractLsb' 0 12).toNat = offset := by
  rw [BitVec.extractLsb'_toNat, transactionHi_toNat t hoff, Nat.shiftRight_eq_div_pow]
  omega

end Fields

/-! #### What the port map does not list -/

/-- The upper halves of the 19 rows of the port map: direction, width and offset (`30_encoding.md` R90). -/
def portRows : List Nat :=
  [0x8200, 0x0206, 0x0208, 0x8208, 0x8209, 0x020A, 0x820B, 0x8302, 0x0302, 0x8303, 0x0303, 0x8304, 0xC304,
    0x8305, 0x0304, 0x4304, 0x0305, 0x0307, 0x8307]

theorem decodeBtw_of_not_mem_portRows {hi : Half} (h : hi.toNat ∉ portRows) (val : Half) :
    decodeBtw hi val = .error (unlisted hi val) := by
  unfold decodeBtw
  split
  case h_20 => rfl
  all_goals
    rename_i hn
    rw [hn] at h
    exact absurd (by decide) h

theorem not_mem_portRows_of_write8 {offset : Nat}
    (h : offset ∉ [0x200, 0x208, 0x209, 0x20B, 0x302, 0x303, 0x304, 0x305, 0x307])
    (hoff : offset < 0x1000) :
    true.toNat * 0x8000 + false.toNat * 0x4000 + offset ∉ portRows := by
  simp only [portRows, List.mem_cons, List.not_mem_nil, or_false, not_or, Bool.toNat_true,
    Bool.toNat_false] at h ⊢
  omega

theorem not_mem_portRows_of_read8 {offset : Nat}
    (h : offset ∉ [0x206, 0x208, 0x20A, 0x302, 0x303, 0x304, 0x305, 0x307]) (hoff : offset < 0x1000) :
    false.toNat * 0x8000 + false.toNat * 0x4000 + offset ∉ portRows := by
  simp only [portRows, List.mem_cons, List.not_mem_nil, or_false, not_or, Bool.toNat_false] at h ⊢
  omega

/-- Only the offset `0x304` has rows of 16 bits. -/
theorem not_mem_portRows_of_wide {write : Bool} {offset : Nat} (h : offset ≠ 0x304)
    (hoff : offset < 0x1000) : write.toNat * 0x8000 + true.toNat * 0x4000 + offset ∉ portRows := by
  cases write <;>
    simp only [portRows, List.mem_cons, List.not_mem_nil, or_false, not_or, Bool.toNat_true,
      Bool.toNat_false] <;>
    omega

/-- The reason for which a transaction that no row lists is inert. -/
def Transaction.inertReject (t : Transaction) : Reject :=
  if t.write then .unlistedWrite else if t.wide then .unlistedRead16 else .unlistedRead8

/-- A well-formed transaction packs into a word that is unlisted for no other reason, unless it is a wide
access to a byte port. -/
theorem unlisted_transactionHi {t : Transaction} {offset : Nat} (hoff : offset < 0x1000)
    (hwf : t.wellFormed = true) (hbyte : t.wide = true → offset ∉ byteOffsets) :
    unlisted (transactionHi t offset) t.value = t.inertReject := by
  rw [unlisted, transactionHi_zero t hoff, transactionHi_dir t hoff, transactionHi_width t hoff,
    transactionHi_offset t hoff]
  cases hw : t.write with
  | false =>
    have hval : t.value = 0 := by simpa [Transaction.wellFormed, hw] using hwf
    cases hd : t.wide with
    | false => simp [Transaction.inertReject, hw, hd, hval]
    | true => simp [Transaction.inertReject, hw, hd, hval, hbyte hd]
  | true =>
    cases hd : t.wide with
    | false =>
      have hfits : fitsByte t.value = true := by simpa [Transaction.wellFormed, hw, hd] using hwf
      simp [Transaction.inertReject, hw, hfits]
    | true => simp [Transaction.inertReject, hw, hbyte hd]

theorem unlisted_transactionHi_of_byteOffset {t : Transaction} {offset : Nat} (hoff : offset < 0x1000)
    (hwide : t.wide = true) (hbyte : offset ∈ byteOffsets) (val : Half) :
    unlisted (transactionHi t offset) val = .wideAccess := by
  rw [unlisted, transactionHi_zero t hoff, transactionHi_width t hoff, transactionHi_offset t hoff,
    if_neg (not_not_intro rfl), if_pos hwide, if_pos hbyte]

/-! #### Decoding a transaction -/

section Decode

variable {base offset : Nat} {t : Transaction}

theorem decodeTransaction_of_port (hport : t.port + 0x200 = offset + base) (hoff : offset < 0x1000) :
    decodeTransaction base t = decodeBtw (transactionHi t offset) t.value := by
  rw [decodeTransaction, portOffset_eq_some hport hoff]

theorem decodeTransaction_of_no_port
    (h : t.port + 0x200 < base ∨ base + 0x1000 ≤ t.port + 0x200) :
    decodeTransaction base t = .error t.inertReject := by
  rw [decodeTransaction, portOffset_eq_none h]
  rfl

theorem decodeTransaction_of_not_listed (hport : t.port + 0x200 = offset + base)
    (hoff : offset < 0x1000) (hwf : t.wellFormed = true)
    (hrow : t.write.toNat * 0x8000 + t.wide.toNat * 0x4000 + offset ∉ portRows)
    (hbyte : t.wide = true → offset ∉ byteOffsets) :
    decodeTransaction base t = .error t.inertReject := by
  rw [← transactionHi_toNat t hoff] at hrow
  rw [decodeTransaction_of_port hport hoff, decodeBtw_of_not_mem_portRows hrow,
    unlisted_transactionHi hoff hwf hbyte]

theorem decodeTransaction_of_wide_byteOffset (hport : t.port + 0x200 = offset + base)
    (hoff : offset < 0x1000) (hwide : t.wide = true) (hbyte : offset ∈ byteOffsets) :
    decodeTransaction base t = .error .wideAccess := by
  have hne : offset ≠ 0x304 := by
    rintro rfl
    exact absurd hbyte (by decide)
  have hrow : (transactionHi t offset).toNat ∉ portRows := by
    rw [transactionHi_toNat t hoff, hwide]
    exact not_mem_portRows_of_wide hne hoff
  rw [decodeTransaction_of_port hport hoff, decodeBtw_of_not_mem_portRows hrow,
    unlisted_transactionHi_of_byteOffset hoff hwide hbyte]

end Decode

end Sys2Proof

namespace Sys2Proof.Machine

section BusSteps

variable {s : State} {t : Transaction} {rest : List AgentStep}

/-- The step that takes a transaction runs what it decodes to, with the reply cleared (log 3). -/
theorem step_bus (hin : s.inbox = .bus t :: rest) :
    step s = runDecoded (decodeTransaction s.params.portBase t)
      { s with inbox := rest, reply := .none } :=
  step_of_inbox_cons hin

/-- The step is inert, as `45_global_registers.md` R276 says: a write changes nothing, an 8-bit read delivers
`0xFF`, a 16-bit read delivers a free value (log 11). -/
def InertStep (s : State) (t : Transaction) (rest : List AgentStep) : Prop :=
  (t.write = true → step s = .next { s with inbox := rest, reply := .none }) ∧
  (t.write = false → t.wide = false → step s = .next { s with inbox := rest, reply := .byte 0xFF#8 }) ∧
  (t.write = false → t.wide = true →
    ∃ h, step s = .next { s with inbox := rest, reply := .half h, draws := s.draws + 1 })

theorem inertStep_of_decodeTransaction (hin : s.inbox = .bus t :: rest)
    (h : decodeTransaction s.params.portBase t = .error t.inertReject) : InertStep s t rest := by
  have hstep := step_bus hin
  rw [h, Transaction.inertReject] at hstep
  refine ⟨fun hw => ?_, fun hw hd => ?_, fun hw hd => ⟨Config.drawOpenBus s.draws, ?_⟩⟩
  · rw [hstep, hw]
    rfl
  · rw [hstep, hw, hd]
    rfl
  · rw [hstep, hw, hd]
    rfl

end BusSteps

/-- Settles O5: the step runs the decoded transaction, and where no row of its direction and width has its
offset, the decoder turns it down for the reason the clause names. -/
theorem busTransactions : Obligations.BusTransactions := by
  intro s t rest hin inert
  have inert_of (h : decodeTransaction s.params.portBase t = .error t.inertReject) : inert :=
    inertStep_of_decodeTransaction hin h
  refine ⟨fun offset hport hoff => ⟨fun i hi => ?_, fun hwf hd hw hlist => ?_, fun hwf hd hw hlist => ?_,
    fun hwf hd hlist => ?_, fun hd hlist => ?_⟩, fun h => inert_of (decodeTransaction_of_no_port h)⟩
  · rw [decode_encodeBtw] at hi
    rw [step_bus hin, decodeTransaction_of_port hport hoff, hi]
    rfl
  · refine inert_of (decodeTransaction_of_not_listed hport hoff hwf ?_ (by simp [hd]))
    rw [hd, hw]
    exact not_mem_portRows_of_write8 hlist hoff
  · refine inert_of (decodeTransaction_of_not_listed hport hoff hwf ?_ (by simp [hd]))
    rw [hd, hw]
    exact not_mem_portRows_of_read8 hlist hoff
  · have hne : offset ≠ 0x304 := by
      rintro rfl
      exact hlist (by decide)
    have hbyte : offset ∉ byteOffsets := fun h =>
      hlist ((show byteOffsets ⊆ [0x200, 0x206, 0x208, 0x209, 0x20A, 0x20B, 0x302, 0x303, 0x304, 0x305,
        0x307] by decide) h)
    refine inert_of (decodeTransaction_of_not_listed hport hoff hwf ?_ fun _ => hbyte)
    rw [hd]
    exact not_mem_portRows_of_wide hne hoff
  · rw [step_bus hin, decodeTransaction_of_wide_byteOffset hport hoff hd hlist]
    rfl

end Sys2Proof.Machine

/-! ### Track advance (`40_track_advance.md` R130 to R145) -/

namespace Sys2Proof.Machine

/-! #### A track by the bits of its flags -/

theorem Track.disabled_eq_false_iff (t : Track) : t.disabled = false ↔ t.state &&& 0x03#7 = 0 := by
  simp [Track.disabled]

theorem Track.stepped_eq (t : Track) :
    t.stepped = if t.state.getLsbD 6 then t.pos.toInt - t.inc.toInt else t.pos.toInt + t.inc.toInt := by
  rw [Track.stepped, Track.decreasing_eq]

theorem Track.remaining_eq (t : Track) :
    t.remaining =
      if t.state.getLsbD 6 then t.start.toInt - t.stepped else t.stepped - t.endAt.toInt := by
  rw [Track.remaining, Track.decreasing_eq]

theorem Track.wrapped_turnedFlags (t : Track) :
    t.wrapped (turnedFlags t) =
      if (if t.state.getLsbD 4 then !t.state.getLsbD 6 else t.state.getLsbD 6) then
        t.endAt.toInt - t.remaining
      else t.start.toInt + t.remaining := by
  rw [Track.wrapped, decreasing_turnedFlags, Track.bidirectional_eq, Track.decreasing_eq]

theorem turnedFlags_eq (t : Track) :
    turnedFlags t = if t.state.getLsbD 4 then t.state ^^^ 0x40#7 else t.state := by
  rw [turnedFlags, Track.bidirectional_eq]

theorem Track.stopped_eq (t : Track) :
    t.stopped = { t with
      pos := if t.state.getLsbD 6 then t.start else t.endAt
      state := t.state ||| 0x01#7 } := by
  rw [Track.stopped, stoppedFlags, Track.decreasing_eq]

/-! #### Short of the boundary, and past it (R133) -/

theorem Track.short_of_boundary_iff (t : Track) (x : Int) :
    (if t.state.getLsbD 6 then x = t.pos.toInt - t.inc.toInt ∧ t.start.toInt < x
      else x = t.pos.toInt + t.inc.toInt ∧ x < t.endAt.toInt) ↔ x = t.stepped ∧ t.remaining < 0 := by
  rw [Track.remaining_eq, Track.stepped_eq]
  split <;> omega

theorem Track.past_boundary_iff (t : Track) (x : Int) :
    (if t.state.getLsbD 6 then x = t.pos.toInt - t.inc.toInt ∧ x ≤ t.start.toInt
      else x = t.pos.toInt + t.inc.toInt ∧ t.endAt.toInt ≤ x) ↔ x = t.stepped ∧ 0 ≤ t.remaining := by
  rw [Track.remaining_eq, Track.stepped_eq]
  split <;> omega

/-! #### The pending bit (R135) -/

theorem Track.signals_of_remaining_neg {t : Track} (h : t.remaining < 0) : t.signals = false := by
  simp [Track.signals, Int.not_le.mpr h]

theorem Track.signals_of_remaining_nonneg {t : Track} (h : 0 ≤ t.remaining) :
    t.signals = t.state.getLsbD 5 := by
  simp [Track.signals, h, Track.raisesIrq_eq]

theorem signalled_false (p : Word) (v : Fin 32) : signalled p v false = p := rfl

/-- A pending mask after an advance is known by its bits. -/
theorem signalled_eq_of_getLsbD {p mask : Word} {v : Fin 32} {raised : Bool}
    (h : ∀ k, mask.getLsbD k = (p.getLsbD k || (k == v.val && raised))) : signalled p v raised = mask :=
  BitVec.eq_of_getLsbD_eq fun k _ => by rw [getLsbD_signalled, h]

/-! #### The advance of a running track -/

/-- R134: short of the boundary only the track is written. -/
theorem State.advance_of_short {s : State} {v : Fin 32} {axis : Axis} {suppress : Bool} {t' : Track}
    (hrun : ((s.voice v).track axis).state &&& 0x03#7 = 0)
    (hr : ((s.voice v).track axis).remaining < 0)
    (hn : ((s.voice v).track axis).next suppress = .ok t') :
    s.advance v axis suppress =
      .ok (((s.voice v).track axis).pos, s.setVoice v ((s.voice v).setTrack axis t')) := by
  rw [State.advance_of_next (Track.disabled_eq_false hrun) hn, Track.signals_of_remaining_neg hr,
    signalled_false, State.setPending_setVoice_pending]

/-- R135: at the boundary and past it, whichever continuation applies, the track is written, and with
`RAISEIRQ` the voice's pending bit is set. -/
theorem State.advance_of_past {s : State} {v : Fin 32} {axis : Axis} {suppress : Bool} {t' : Track}
    {mask : Word} (hrun : ((s.voice v).track axis).state &&& 0x03#7 = 0)
    (hr : 0 ≤ ((s.voice v).track axis).remaining)
    (hmask : ∀ k, mask.getLsbD k =
      ((s.pending axis).getLsbD k || (k == v.val && ((s.voice v).track axis).state.getLsbD 5)))
    (hn : ((s.voice v).track axis).next suppress = .ok t') :
    s.advance v axis suppress = .ok (((s.voice v).track axis).pos,
      (s.setVoice v ((s.voice v).setTrack axis t')).setPending axis mask) := by
  rw [State.advance_of_next (Track.disabled_eq_false hrun) hn, Track.signals_of_remaining_nonneg hr,
    signalled_eq_of_getLsbD hmask]

/-- An advance faults exactly where a running track cannot move. -/
theorem State.advance_eq_error_iff {s : State} {v : Fin 32} {axis : Axis} {suppress : Bool} {e : Fault} :
    s.advance v axis suppress = .error e ↔ ((s.voice v).track axis).state &&& 0x03#7 = 0 ∧
      ((s.voice v).track axis).next suppress = .error e := by
  rw [← Track.disabled_eq_false_iff]
  cases hd : ((s.voice v).track axis).disabled with
  | true => simp [State.advance_of_disabled hd]
  | false =>
    cases hn : ((s.voice v).track axis).next suppress with
    | ok t' => simp [State.advance_of_next hd hn]
    | error e' => simp [State.advance_of_error hd hn]

/-! #### Loops -/

/-- The positions that are stored are those that `storeS32_eq_error` leaves. -/
theorem exists_storeS32_eq_ok_iff {x : Int} :
    (∃ p, storeS32 x = .ok p) ↔ ¬ (x < -2147483648 ∨ 2147483647 < x) := by
  cases h : storeS32 x with
  | ok p =>
    have hno : ¬ storeS32 x = .error .trackOverflow := by simp [h]
    simpa [storeS32_eq_error] using hno
  | error e =>
    simp only [reduceCtorEq, exists_false, false_iff, not_not]
    exact (storeS32_eq_error.mp h).2

/-- When a move faults (log 13), by the values of its two positions. -/
theorem Track.next_eq_error_iff {t : Track} {suppress : Bool} {e : Fault} :
    t.next suppress = .error e ↔ e = .trackOverflow ∧
      ((t.stepped < -2147483648 ∨ 2147483647 < t.stepped) ∨
        (suppress = false ∧ t.state.getLsbD 3 = true ∧ 0 ≤ t.remaining ∧
          (t.wrapped (turnedFlags t) < -2147483648 ∨ 2147483647 < t.wrapped (turnedFlags t)))) := by
  rw [Track.next_eq_error, exists_storeS32_eq_ok_iff, storeS32_eq_error, storeS32_eq_error,
    Track.loops_eq]
  constructor
  · rintro (⟨he, hs⟩ | ⟨-, hr, hsup, hl, he, hw⟩)
    · exact ⟨he, .inl hs⟩
    · exact ⟨he, .inr ⟨hsup, hl, hr, hw⟩⟩
  · rintro ⟨he, hs | ⟨hsup, hl, hr, hw⟩⟩
    · exact .inl ⟨he, hs⟩
    · exact (em _).imp (And.intro he) fun hs => ⟨hs, hr, hsup, hl, he, hw⟩

/-- Settles O40: R138 for the loop, and for the fault the two positions that can leave `s32`. -/
theorem advanceLoopsWithItsOvershoot : Obligations.AdvanceLoopsWithItsOvershoot := by
  refine ⟨fun s v axis stepped pos mask => ?_, fun s v axis suppress e => ?_⟩
  · intro t down downAfter past hrun hloop hpast hstepped hpos hmask
    have hs : stepped.toInt = t.stepped := by rw [Track.stepped_eq]; exact hstepped
    have hr : t.remaining = past := by rw [Track.remaining_eq, ← hs]
    have hw : pos.toInt = t.wrapped (turnedFlags t) := by
      rw [Track.wrapped_turnedFlags, hr]
      exact hpos
    rw [← turnedFlags_eq]
    exact State.advance_of_past hrun (hr ▸ hpast) hmask
      (Track.next_of_loop hs (hr ▸ hpast) (by rw [Track.loops_eq, hloop]) hw)
  · rw [State.advance_eq_error_iff, Track.next_eq_error_iff, Track.wrapped_turnedFlags,
      Track.remaining_eq, Track.stepped_eq, and_left_comm]

/-! #### Staying within the bounds (R145) -/

section WithinBounds

variable {t : Track}

/-- The overshoot of a track within its bounds is at most its increment. -/
theorem Track.remaining_le_inc (h1 : t.start.toInt ≤ t.pos.toInt) (h2 : t.pos.toInt ≤ t.endAt.toInt) :
    t.remaining ≤ t.inc.toInt := by
  rw [Track.remaining_eq, Track.stepped_eq]
  split <;> omega

/-- Short of its boundary a track within its bounds stays there. -/
theorem Track.stepped_within_bounds (h1 : t.start.toInt ≤ t.pos.toInt)
    (h2 : t.pos.toInt ≤ t.endAt.toInt) (hinc : 0 < t.inc.toInt) (hr : t.remaining < 0) :
    t.start.toInt ≤ t.stepped ∧ t.stepped ≤ t.endAt.toInt := by
  rw [Track.remaining_eq, Track.stepped_eq] at hr
  rw [Track.stepped_eq]
  split at hr <;> simp only [*, if_true, Bool.false_eq_true, if_false] <;> omega

/-- An overshoot no longer than the loop is laid off within the loop, from either bound. -/
theorem Track.wrapped_within_bounds (f : TrackFlags) (hr : 0 ≤ t.remaining)
    (hlen : t.remaining ≤ t.endAt.toInt - t.start.toInt) :
    t.start.toInt ≤ t.wrapped f ∧ t.wrapped f ≤ t.endAt.toInt := by
  unfold Track.wrapped
  split <;> omega

/-- An integer between two `s32` is an `s32`. -/
theorem exists_toInt_eq_of_between {f g : S32} {x : Int} (h1 : f.toInt ≤ x) (h2 : x ≤ g.toInt) :
    ∃ p : S32, p.toInt = x :=
  ⟨S32.ofInt x, S32.toInt_ofInt (f.le_toInt.trans h1) (h2.trans g.toInt_le)⟩

theorem Track.exists_toInt_eq_stepped (h1 : t.start.toInt ≤ t.pos.toInt)
    (h2 : t.pos.toInt ≤ t.endAt.toInt) (hinc : 0 < t.inc.toInt)
    (hlo : -2147483648 ≤ t.start.toInt - t.inc.toInt) (hhi : t.endAt.toInt + t.inc.toInt ≤ 2147483647) :
    ∃ p : S32, p.toInt = t.stepped := by
  refine ⟨_, S32.toInt_ofInt ?_ ?_⟩ <;> rw [Track.stepped_eq] <;> split <;> omega

/-- R145: a looping track moves without a fault and stays within its bounds. -/
theorem Track.next_within_bounds (hloop : t.loops = true) (h1 : t.start.toInt ≤ t.pos.toInt)
    (h2 : t.pos.toInt ≤ t.endAt.toInt) (hinc : 0 < t.inc.toInt)
    (hlen : t.inc.toInt ≤ t.endAt.toInt - t.start.toInt)
    (hlo : -2147483648 ≤ t.start.toInt - t.inc.toInt) (hhi : t.endAt.toInt + t.inc.toInt ≤ 2147483647) :
    ∃ t', t.next false = .ok t' ∧ t.start.toInt ≤ t'.pos.toInt ∧ t'.pos.toInt ≤ t.endAt.toInt := by
  obtain ⟨p, hp⟩ := Track.exists_toInt_eq_stepped h1 h2 hinc hlo hhi
  rcases lt_or_ge t.remaining 0 with hr | hr
  · refine ⟨_, Track.next_of_remaining_neg hp hr false, ?_⟩
    simpa only [hp] using Track.stepped_within_bounds h1 h2 hinc hr
  · have hw := Track.wrapped_within_bounds (turnedFlags t) hr ((Track.remaining_le_inc h1 h2).trans hlen)
    obtain ⟨q, hq⟩ := exists_toInt_eq_of_between hw.1 hw.2
    refine ⟨_, Track.next_of_loop hp hr hloop hq, ?_⟩
    simpa only [hq] using hw

end WithinBounds

/-- Settles O41: the track moves within its bounds, and the advance stores what the move gives. -/
theorem loopingTrackStaysWithinItsBounds : Obligations.LoopingTrackStaysWithinItsBounds := by
  intro s v axis t hrun hloop h1 h2 hinc hlen hlo hhi
  obtain ⟨t', hn, hwithin⟩ :=
    Track.next_within_bounds ((Track.loops_eq t).trans hloop) h1 h2 hinc hlen hlo hhi
  refine ⟨_, State.advance_of_next (Track.disabled_eq_false hrun) hn, ?_⟩
  simpa only [State.setPending_voice, State.voice_setVoice, Voice.track_setTrack] using hwithin

/-! #### What an advance writes (R131, R132) -/

/-- A move writes the position and the flags `RESET` and `DECREASING`. -/
theorem Track.eq_with_pos_state_of_next {t t' : Track} {suppress : Bool} (h : t.next suppress = .ok t') :
    t' = { t with pos := t'.pos, state := t'.state } := by
  obtain ⟨hstart, hend, hinc, hrate, -⟩ := Track.next_cases h
  cases t'
  cases hstart
  cases hend
  cases hinc
  cases hrate
  rfl

theorem Track.getLsbD_state_of_next {t t' : Track} {suppress : Bool} (h : t.next suppress = .ok t')
    {k : Nat} (h0 : k ≠ 0) (h6 : k ≠ 6) : t'.state.getLsbD k = t.state.getLsbD k := by
  obtain ⟨-, -, -, -, hf | hf | hf⟩ := Track.next_cases h <;> rw [hf]
  · rw [BitVec.getLsbD_or, show 0x01#7 = BitVec.twoPow 7 0 from rfl, BitVec.getLsbD_twoPow]
    simp [h0.symm]
  · rw [BitVec.getLsbD_xor, show 0x40#7 = BitVec.twoPow 7 6 from rfl, BitVec.getLsbD_twoPow]
    simp [h6.symm]

/-- Writing a track and a pending mask as they are changes nothing. -/
theorem State.write_back (s : State) (v : Fin 32) (axis : Axis) :
    (s.setVoice v ((s.voice v).setTrack axis ((s.voice v).track axis))).setPending axis
      (s.pending axis) = s := by
  rw [Voice.setTrack_track, State.setVoice_voice, State.setPending_pending]

/-- Settles O36: a disabled track is left alone; otherwise the advance writes one move of the track and the
pending mask. -/
theorem advanceReturnsThePositionBefore : Obligations.AdvanceReturnsThePositionBefore := by
  intro s v axis suppress
  refine ⟨fun h => State.advance_of_disabled (Track.disabled_eq_true h) suppress, fun p t h => ?_⟩
  obtain ⟨hp, ⟨-, rfl⟩ | ⟨t', -, hn, rfl⟩⟩ := State.advance_cases h
  · exact ⟨hp, _, _, _, fun _ _ _ => rfl, fun _ _ => rfl, (State.write_back t v axis).symm⟩
  · refine ⟨hp, t'.pos, t'.state, _, fun _ h0 h6 => Track.getLsbD_state_of_next hn h0 h6, fun k hk => ?_,
      by rw [← Track.eq_with_pos_state_of_next hn]⟩
    simp [getLsbD_signalled, hk]

/-! #### The other continuations (R134, R136, R137, R139) -/

/-- Settles O37. -/
theorem advanceWithoutCrossing : Obligations.AdvanceWithoutCrossing := by
  intro s v axis suppress pos t hrun hshort
  obtain ⟨hs, hr⟩ := (Track.short_of_boundary_iff t pos.toInt).mp hshort
  exact State.advance_of_short hrun hr (Track.next_of_remaining_neg hs hr suppress)

/-- Settles O38. -/
theorem advanceStopsAtTheBoundary : Obligations.AdvanceStopsAtTheBoundary := by
  intro s v axis stepped mask t hrun hloop hpast hmask
  obtain ⟨hs, hr⟩ := (Track.past_boundary_iff t stepped.toInt).mp hpast
  rw [← Track.stopped_eq]
  exact State.advance_of_past hrun hr hmask (Track.next_of_stop hs hr (by rw [Track.loops_eq, hloop]))

/-- R139, by the bits. -/
theorem Voice.rollover_iff (x : Voice) :
    x.rollover = true ↔ x.vol.state.getLsbD 2 = true ∧ x.wave.state.getLsbD 3 = false := by
  simp [Voice.rollover, Track.bit16_eq, Track.loops_eq]

/-- Settles O39: under `suppress` the stepped position is stored past the boundary too. -/
theorem advanceRollsOver : Obligations.AdvanceRollsOver := by
  refine ⟨Voice.rollover_iff, fun s v stepped mask => ?_⟩
  intro t hrun hpast hmask
  obtain ⟨hs, hr⟩ := (Track.past_boundary_iff t stepped.toInt).mp hpast
  exact State.advance_of_past (axis := .wave) hrun hr hmask (Track.next_of_suppress hs)

end Sys2Proof.Machine

/-! ### Sample fetch and interpolation (`41_sample_fetch.md` R150 to R156) -/

namespace Sys2Proof.Machine

/-! #### Sample addresses (`20_memory.md` R69, R70) -/

theorem addr8_eq_ofNat_mod (a : Nat) : addr8 a = BitVec.ofNat 20 (a % 0x100000) :=
  BitVec.eq_of_toNat_eq (by simp [addr8])

/-- The interleave by bits: the bits of `U` stay in place, and the `L` low bits move up by one. -/
theorem getLsbD_addr16 (q : Params) (a : Nat) {k : Nat} (hk : k < 20) :
    (addr16 q a).getLsbD k =
      ((a.testBit k && q.addr16UpperMask.getLsbD k) ||
        (decide (1 ≤ k) && decide (k ≤ q.addr16LowerBits) && a.testBit (k - 1))) := by
  have upper : (a &&& q.addr16UpperMask.toNat).testBit k =
      (a.testBit k && q.addr16UpperMask.getLsbD k) := Nat.testBit_and _ _ _
  have lower : ((a % 2 ^ q.addr16LowerBits) <<< 1).testBit k =
      (decide (1 ≤ k) && decide (k ≤ q.addr16LowerBits) && a.testBit (k - 1)) := by
    rw [Nat.testBit_shiftLeft, Nat.testBit_mod_two_pow, ← Bool.and_assoc]
    cases k <;> rfl
  rw [addr16, BitVec.getLsbD_ofNat, decide_eq_true hk, Bool.true_and, Nat.testBit_or, upper, lower]

/-! #### One fetch (R150 to R152) -/

theorem State.readSample_of_bit16_clear {t : Track} (h : t.state.getLsbD 2 = false) (s : State) (a : Nat) :
    s.readSample t a = s.read8 a := by
  rw [State.readSample, Track.bit16_eq, h, if_neg Bool.false_ne_true]

theorem State.readSample_of_bit16_set {t : Track} (h : t.state.getLsbD 2 = true) (s : State) (a : Nat) :
    s.readSample t a = s.read16 a := by
  rw [State.readSample, Track.bit16_eq, h, if_pos rfl]

/-- Settles O46: by the width, the address of the fetch is `addr8` or `addr16`; the interleave's bits hold
for every `L`, also above the bound of the statement. -/
theorem sampleFetchReadsByWidth : Obligations.SampleFetchReadsByWidth := by
  refine fun s t a => ⟨fun h => ?_, fun h _ => ⟨addr16 s.params a, fun k hk => ?_, ?_⟩⟩
  · rw [State.readSample_of_bit16_clear h, State.read8, addr8_eq_ofNat_mod]
  · exact getLsbD_addr16 s.params a hk
  · exact State.readSample_of_bit16_set h s a

/-! #### The interpolated sample (R153, R154) -/

section Interp

variable {s : State} {t : Track} {p : Nat}

theorem State.toReal_interp_of_fraction (hn : s.params.numerics = .exact) (hinc : t.inc.toInt < 512)
    (hp : p % 512 ≠ 0) :
    (s.interp t p).toReal = (s.readSample t (p / 512) : ℝ) +
      ((s.readSample t (p / 512 + 1) : ℝ) - s.readSample t (p / 512)) * (p % 512 : Nat) / 512 := by
  rw [State.interp, if_pos ⟨hinc, hp⟩, hn, roundExact, Exact.toReal_ofRat]
  push_cast
  rfl

theorem State.toReal_interp_of_skip (h : 512 ≤ t.inc.toInt ∨ p % 512 = 0) :
    (s.interp t p).toReal = (s.readSample t (p / 512) : ℝ) := by
  have hskip : ¬ (t.inc.toInt < 512 ∧ p % 512 ≠ 0) := by omega
  rw [State.interp, if_neg hskip, Exact.toReal_ofRat, Rat.cast_intCast]

/-- A point at a fraction of the way from `x` to `y` lies between them. -/
theorem interpolate_mem_uIcc (x y : ℝ) {n d : Nat} (h : n ≤ d) : x + (y - x) * n / d ∈ Set.uIcc x y := by
  have hc : (n / d : ℝ) ∈ Set.Icc (0 : ℝ) 1 :=
    ⟨by positivity, div_le_one_of_le₀ (Nat.cast_le.mpr h) (Nat.cast_nonneg d)⟩
  have := (convex_uIcc x y).add_smul_sub_mem Set.left_mem_uIcc Set.right_mem_uIcc hc
  rwa [smul_eq_mul, mul_comm, ← mul_div_assoc] at this

/-- Interpolated or not, the sample lies between the sample at the address and its neighbour. -/
theorem State.toReal_interp_mem_uIcc (hn : s.params.numerics = .exact) :
    (s.interp t p).toReal ∈
      Set.uIcc (s.readSample t (p / 512) : ℝ) (s.readSample t (p / 512 + 1) : ℝ) := by
  by_cases h : t.inc.toInt < 512 ∧ p % 512 ≠ 0
  · rw [State.toReal_interp_of_fraction hn h.1 h.2]
    exact interpolate_mem_uIcc _ _ (Nat.mod_lt p (by decide)).le
  · rw [State.toReal_interp_of_skip (by omega)]
    exact Set.left_mem_uIcc

theorem State.readSample_mem_Icc (s : State) (t : Track) (a : Nat) :
    (s.readSample t a : ℝ) ∈ Set.Icc (-32768 : ℝ) 32767 := by
  obtain ⟨hlo, hhi⟩ := s.readSample_bounds t a
  exact ⟨by exact_mod_cast hlo, by exact_mod_cast hhi⟩

/-- What lies between two samples is in the 16-bit range. -/
theorem State.toReal_interp_mem_Icc (hn : s.params.numerics = .exact) :
    (s.interp t p).toReal ∈ Set.Icc (-32768 : ℝ) 32767 :=
  Set.uIcc_subset_Icc (s.readSample_mem_Icc t _) (s.readSample_mem_Icc t _) (toReal_interp_mem_uIcc hn)

end Interp

/-! #### The sample of a voice (R155, R156) -/

theorem State.sampleAt_of_nonneg {p : S32} (h : 0 ≤ p.toInt) (s : State) (v : Fin 32) :
    s.sampleAt v p = (s.interp (s.voice v).wave p.toInt.toNat, s) :=
  if_neg (not_lt.mpr h)

theorem State.sampleAt_of_neg {p : S32} (h : p.toInt < 0) (s : State) (v : Fin 32) :
    s.sampleAt v p = (freeSample s.draws, s.drawn) :=
  if_pos h

theorem State.getSample_of_advance {s t : State} {v : Fin 32} {p : S32}
    (h : s.advance v .wave (s.voice v).rollover = .ok (p, t)) : s.getSample v = .ok (t.sampleAt v p) := by
  rw [State.getSample, h]

/-- Settles O45: the two branches of `interp` with their common range, the two of `sampleAt`, and the
position that the advance returns. -/
theorem interpolatedSampleLiesBetween : Obligations.InterpolatedSampleLiesBetween := by
  refine ⟨fun s t p hn => ?_, fun s v p => ⟨fun h => ?_, fun h => ?_⟩, fun s t v p h => ?_⟩
  · obtain ⟨hmin, hmax⟩ := State.toReal_interp_mem_uIcc (t := t) (p := p) hn
    obtain ⟨hlo, hhi⟩ := State.toReal_interp_mem_Icc (t := t) (p := p) hn
    exact ⟨State.toReal_interp_of_fraction hn, State.toReal_interp_of_skip, hmin, hmax, hlo, hhi⟩
  · exact State.sampleAt_of_nonneg h s v
  · exact ⟨freeSample s.draws, State.sampleAt_of_neg h s v, freeSample_bounds s.draws⟩
  · obtain ⟨hp, -⟩ := State.advance_cases h
    exact ⟨hp, State.getSample_of_advance h⟩

end Sys2Proof.Machine

/-! ### Volume (`42_volume.md` R173, R176) -/

namespace Sys2Proof.Machine

/-! #### The volume index (R173) -/

/-- `ceil_div` is the lower adjoint of multiplication (`00_scope.md` R12). -/
theorem ceilDiv_le_iff {a b q : Int} (hb : 0 < b) : ceilDiv a b ≤ q ↔ a ≤ q * b := by
  rw [ceilDiv, neg_le, Int.le_ediv_iff_mul_le hb, neg_mul, neg_le_neg_iff]

theorem lt_ceilDiv_iff {a b q : Int} (hb : 0 < b) : q < ceilDiv a b ↔ q * b < a := by
  rw [← not_le, ceilDiv_le_iff hb, not_le]

theorem clamp_of_le {v lo hi : Int} (h : v ≤ lo) (hb : lo ≤ hi) : clamp v lo hi = lo := by
  rcases h.lt_or_eq with h | rfl
  · exact if_pos h
  · exact clamp_of_mem le_rfl hb

theorem clamp_of_ge {v lo hi : Int} (h : hi ≤ v) (hb : lo ≤ hi) : clamp v lo hi = hi := by
  rcases h.lt_or_eq with h | rfl
  · rw [clamp, if_neg (hb.trans_lt h).not_gt, if_pos h]
  · exact clamp_of_mem hb le_rfl

/-- Decision D17. -/
theorem volIndex_of_nonpos {p : S32} (h : p.toInt ≤ 0) : volIndex p = 0 := by
  have hq : ceilDiv p.toInt 512 ≤ 0 := (ceilDiv_le_iff (by decide)).mpr (by omega)
  rw [volIndex, clamp_of_le hq (by decide), Int.toNat_zero]

theorem volIndex_of_full_scale {p : S32} (h : 4095 * 512 ≤ p.toInt) : volIndex p = 4095 := by
  have hq : 4095 ≤ ceilDiv p.toInt 512 :=
    Int.add_one_le_of_lt ((lt_ceilDiv_iff (q := 4094) (by decide)).mpr (by omega))
  rw [volIndex, clamp_of_ge hq (by decide)]
  rfl

/-- Within the table's positions the clamp changes nothing. -/
theorem volIndex_eq_ceilDiv {p : S32} (h0 : 0 < p.toInt) (h1 : p.toInt ≤ 4095 * 512) :
    (volIndex p : Int) = ceilDiv p.toInt 512 := by
  have hlo : 0 ≤ ceilDiv p.toInt 512 := ((lt_ceilDiv_iff (by decide)).mpr h0).le
  have hhi : ceilDiv p.toInt 512 ≤ 4095 := (ceilDiv_le_iff (by decide)).mpr h1
  rw [volIndex, clamp_of_mem hlo hhi, Int.toNat_of_nonneg hlo]

/-- Settles O42: the clamp's two bounds, and between them the rounding of `ceil_div`. -/
theorem volumeIndexRoundsUpAndClamps : Obligations.VolumeIndexRoundsUpAndClamps := by
  refine fun p => ⟨volIndex_lt p, volIndex_of_nonpos, volIndex_of_full_scale, fun h0 h1 => ?_⟩
  obtain ⟨hup, hleast⟩ := ceilDiv_spec (a := p.toInt) (b := 512) (by decide)
  rw [volIndex_eq_ceilDiv h0 h1]
  constructor <;> omega

/-! #### The volume table (R176) -/

@[simp] theorem volEntry_zero (p : Params) : volEntry p 0 = .zero := rfl

@[simp] theorem volEntry_full_scale (p : Params) : volEntry p 4095 = .ofRat 1 := rfl

section Table

variable {p : Params} {i : Nat}

/-- P3, the first half. -/
theorem toReal_volEntry_pos (h : p.numerics = .exact) (hr : 1 < p.ratio) (hi : 1 ≤ i) (hi' : i ≤ 4095) :
    0 < (volEntry p i).toReal := by
  rw [toReal_volEntry h hr hi hi']
  exact inv_pos.mpr (pow_pos (zero_lt_one.trans hr) _)

/-- P4: the next entry has one factor less in its denominator. -/
theorem toReal_volEntry_succ (h : p.numerics = .exact) (hr : 1 < p.ratio) (hi : 1 ≤ i) (hi' : i < 4095) :
    (volEntry p (i + 1)).toReal = p.ratio * (volEntry p i).toReal := by
  have hr0 : p.ratio ≠ 0 := (zero_lt_one.trans hr).ne'
  have hk : 4095 - i = 4095 - (i + 1) + 1 := by omega
  rw [toReal_volEntry h hr hi hi'.le, toReal_volEntry h hr (by omega) hi', hk, pow_succ, mul_inv_rev,
    mul_inv_cancel_left₀ hr0]

/-- P3, the second half: it follows from P4, `r` being above 1. -/
theorem toReal_volEntry_lt_succ (h : p.numerics = .exact) (hr : 1 < p.ratio) (hi : 1 ≤ i)
    (hi' : i < 4095) : (volEntry p i).toReal < (volEntry p (i + 1)).toReal := by
  rw [toReal_volEntry_succ h hr hi hi']
  exact lt_mul_of_one_lt_left (toReal_volEntry_pos h hr hi hi'.le) hr

end Table

/-- Settles O43, by P1 to P4. -/
theorem volumeTableIsGeometric : Obligations.VolumeTableIsGeometric :=
  ⟨fun _ => Params.one_lt_ratio, fun _ h hr => ⟨by simp, by simp, fun _ hi hi' =>
    ⟨toReal_volEntry_pos h hr hi hi'.le, toReal_volEntry_lt_succ h hr hi hi',
      toReal_volEntry_succ h hr hi hi'⟩⟩⟩

end Sys2Proof.Machine

/-! ### The pan table (`43_voice_render.md` R190 to R193) -/

namespace Sys2Proof.Machine

section PanTable

open Real

variable {q : Params}

theorem cast_panNorm (p : Nat) :
    (panNorm p : ℝ) = if p < 7 then ((p : ℝ) - 7) / 7 else ((p : ℝ) - 7) / 8 := by
  unfold panNorm
  split <;> push_cast <;> rfl

/-- R193. -/
theorem sq_panLeft_add_sq_panRight (h : q.numerics = .exact) (p : Fin 16) :
    (panLeft q p).toReal ^ 2 + (panRight q p).toReal ^ 2 = 1 := by
  rw [toReal_panLeft h, toReal_panRight h, cos_sq_add_sin_sq]

/-- A position whose angle is known. -/
theorem toReal_pan_of_theta (h : q.numerics = .exact) {p : Fin 16} {θ : ℝ}
    (hθ : ((panNorm p + 1 : ℚ) : ℝ) * π / 4 = θ) :
    (panLeft q p).toReal = cos θ ∧ (panRight q p).toReal = sin θ := by
  rw [toReal_panLeft h, toReal_panRight h, hθ]
  exact ⟨rfl, rfl⟩

theorem toReal_pan_full_left (h : q.numerics = .exact) :
    (panLeft q 0).toReal = 1 ∧ (panRight q 0).toReal = 0 := by
  have hθ : ((panNorm (0 : Fin 16) + 1 : ℚ) : ℝ) * π / 4 = 0 := by norm_num [panNorm]
  simpa using toReal_pan_of_theta h hθ

theorem toReal_pan_full_right (h : q.numerics = .exact) :
    (panLeft q 15).toReal = 0 ∧ (panRight q 15).toReal = 1 := by
  have hθ : ((panNorm (15 : Fin 16) + 1 : ℚ) : ℝ) * π / 4 = π / 2 := by norm_num [panNorm]; ring
  simpa using toReal_pan_of_theta h hθ

theorem toReal_pan_centre (h : q.numerics = .exact) :
    (panLeft q 7).toReal = √2 / 2 ∧ (panRight q 7).toReal = √2 / 2 := by
  have hθ : ((panNorm (7 : Fin 16) + 1 : ℚ) : ℝ) * π / 4 = π / 4 := by norm_num [panNorm]
  simpa using toReal_pan_of_theta h hθ

end PanTable

/-- Settles O44: the table entries are the cosine and the sine of one angle, whose value at the three named
positions is 0, `π / 2` and `π / 4`. -/
theorem panTableHasConstantPower : Obligations.PanTableHasConstantPower := by
  intro q h
  refine ⟨fun p => ⟨?_, ?_, sq_panLeft_add_sq_panRight h p⟩, ?_⟩
  · rw [toReal_panLeft h, Rat.cast_add, cast_panNorm, Rat.cast_one]
  · rw [toReal_panRight h, Rat.cast_add, cast_panNorm, Rat.cast_one]
  · obtain ⟨hl0, hr0⟩ := toReal_pan_full_left h
    obtain ⟨hl15, hr15⟩ := toReal_pan_full_right h
    obtain ⟨hl7, hr7⟩ := toReal_pan_centre h
    exact ⟨hl0, hr0, hl15, hr15, hl7, hr7⟩

end Sys2Proof.Machine

/-! ### The voice engine (`43_voice_render.md` R194 to R200) -/

namespace Sys2Proof.Machine

/-! #### What is skipped (R195, R197) -/

theorem State.voiceFrame_of_silent {s : State} {v : Fin 32} (h : (s.voice v).silent = true) (f : Nat) :
    s.voiceFrame v f = .ok s :=
  if_pos h

theorem seqStep_of_outputDisabled {s : State} (h : s.outputEnabled = false) (n : Nat) :
    seqStep n s = .next s := by
  rw [seqStep, h, if_neg Bool.false_ne_true]

/-- Settles O47. -/
theorem silentVoicesAndDisabledOutput : Obligations.SilentVoicesAndDisabledOutput := by
  refine ⟨fun s v f hwave hvol => State.voiceFrame_of_silent ?_ f, fun s n h => seqStep_of_outputDisabled h n⟩
  rw [Voice.silent, Track.disabled_eq_true hwave, Track.disabled_eq_true hvol, Bool.and_self]

/-! #### One frame of a voice (R194, R197, R198) -/

/-- R197, by the bits. -/
theorem Voice.silent_eq_false_iff (x : Voice) :
    x.silent = false ↔ x.wave.state &&& 0x03#7 = 0 ∨ x.vol.state &&& 0x03#7 = 0 := by
  rw [Voice.silent, Bool.and_eq_false_iff, Track.disabled_eq_false_iff, Track.disabled_eq_false_iff]

theorem Voice.rollover_eq (x : Voice) :
    x.rollover = (x.vol.state.getLsbD 2 && !x.wave.state.getLsbD 3) := by
  rw [Voice.rollover, Track.bit16_eq, Track.loops_eq]

section Advance

variable {s t : State} {v : Fin 32} {axis : Axis} {suppress : Bool} {p : S32}

/-- What an advance writes of its voice keeps what a fetch reads of the track. -/
theorem State.voice_of_advance (h : s.advance v axis suppress = .ok (p, t)) :
    ∃ t', t.voice v = (s.voice v).setTrack axis t' ∧ t'.inc = ((s.voice v).track axis).inc ∧
      t'.bit16 = ((s.voice v).track axis).bit16 := by
  obtain ⟨-, ⟨-, rfl⟩ | ⟨t', -, hn, rfl⟩⟩ := State.advance_cases h
  · exact ⟨_, (Voice.setTrack_track _ axis).symm, rfl, rfl⟩
  · obtain ⟨-, -, hinc, -, -⟩ := Track.next_cases hn
    refine ⟨t', by rw [State.setPending_voice, State.voice_setVoice], hinc, ?_⟩
    rw [Track.bit16_eq, Track.bit16_eq, Track.getLsbD_state_of_next hn (by decide) (by decide)]

/-- What a frame reads or writes beside the voice, an advance leaves alone. -/
theorem State.advance_keeps (h : s.advance v axis suppress = .ok (p, t)) :
    t.ram = s.ram ∧ t.params = s.params ∧ t.acc = s.acc ∧ t.draws = s.draws := by
  obtain ⟨-, ⟨-, rfl⟩ | ⟨t', -, -, rfl⟩⟩ := State.advance_cases h
  · exact ⟨rfl, rfl, rfl, rfl⟩
  · simp

/-- An advance does not look at the draw counter. -/
theorem State.advance_setDraws (h : s.advance v axis suppress = .ok (p, t)) (d : Nat) :
    ({ s with draws := d } : State).advance v axis suppress = .ok (p, { t with draws := d }) := by
  obtain ⟨rfl, ⟨hd, rfl⟩ | ⟨t', hd, hn, rfl⟩⟩ := State.advance_cases h
  · exact State.advance_of_disabled (s := { t with draws := d }) hd suppress
  · rw [State.advance_of_next (s := { s with draws := d }) hd hn]
    cases axis <;> rfl

theorem State.advance_setDraws_error {e : Fault} (h : s.advance v axis suppress = .error e) (d : Nat) :
    ({ s with draws := d } : State).advance v axis suppress = .error e := by
  obtain ⟨hrun, hn⟩ := State.advance_eq_error_iff.mp h
  exact State.advance_eq_error_iff.mpr ⟨hrun, hn⟩

/-- A track that runs in place short of its `end` moves nothing (`70_reset_and_hazards.md` R423). -/
theorem State.advance_in_place (hf : ((s.voice v).track axis).state &&& 0x43#7 = 0)
    (hinc : ((s.voice v).track axis).inc.toInt = 0)
    (hend : ((s.voice v).track axis).pos.toInt < ((s.voice v).track axis).endAt.toInt) :
    s.advance v axis suppress = .ok (((s.voice v).track axis).pos, s) := by
  obtain ⟨hrun, hup⟩ := (by decide +kernel :
    ∀ f : TrackFlags, f &&& 0x43#7 = 0 → f &&& 0x03#7 = 0 ∧ f.getLsbD 6 = false) _ hf
  obtain ⟨hs, hr⟩ := (Track.short_of_boundary_iff ((s.voice v).track axis) _).mp
    (by rw [hup, hinc, sub_zero, add_zero]; exact ⟨rfl, hend⟩)
  rw [State.advance_of_short hrun hr (Track.next_of_remaining_neg hs hr suppress), Voice.setTrack_track,
    State.setVoice_voice]

end Advance

/-- A sample depends on RAM, the configuration, and the increment and the width of the track. -/
theorem State.interp_congr {s s' : State} {t t' : Track} (hram : s'.ram = s.ram)
    (hparams : s'.params = s.params) (hinc : t'.inc = t.inc) (hwidth : t'.bit16 = t.bit16) (p : Nat) :
    s'.interp t' p = s.interp t p := by
  simp only [State.interp, State.readSample, State.read8, State.read16, State.ramByte, hram, hparams, hinc,
    hwidth]

/-- A sample is taken by the increment and the width of the track, which the advance before it keeps. -/
theorem State.interp_of_advance {s w : State} {v : Fin 32} {suppress : Bool} {p : S32}
    (h : s.advance v .wave suppress = .ok (p, w)) (n : Nat) :
    w.interp (w.voice v).wave n = s.interp (s.voice v).wave n := by
  obtain ⟨t', hvoice, hinc, hwidth⟩ := State.voice_of_advance h
  obtain ⟨hram, hparams, -, -⟩ := State.advance_keeps h
  rw [hvoice]
  exact State.interp_congr hram hparams hinc hwidth n

/-- The two outcomes of a fetch in one: it may take a draw, and the sample is in the 16-bit range. -/
theorem State.sampleAt_eq (s : State) (v : Fin 32) (p : S32) : ∃ x : Exact,
    s.sampleAt v p = (x, { s with draws := if p.toInt < 0 then s.draws + 1 else s.draws }) ∧
      (0 ≤ p.toInt → x = s.interp (s.voice v).wave p.toInt.toNat) ∧
      (s.params.numerics = .exact → x.toReal ∈ Set.Icc (-32768 : ℝ) 32767) := by
  obtain ⟨hp, h⟩ | ⟨hp, h⟩ := s.sampleAt_cases v p
  · rw [if_pos hp]
    exact ⟨freeSample s.draws, h, fun h0 => absurd hp h0.not_gt, fun _ => freeSample_bounds s.draws⟩
  · rw [if_neg hp.not_gt]
    exact ⟨_, h, fun _ => rfl, State.toReal_interp_mem_Icc⟩

section Frame

variable {s w u : State} {v : Fin 32} {p q : S32} {e : Fault}

/-- R198: the two advances one after the other, and the sum into the frame. -/
theorem State.voiceFrame_of_advances (hrun : (s.voice v).silent = false)
    (hw : s.advance v .wave (s.voice v).rollover = .ok (p, w)) {sample : Exact} {d : Nat}
    (hsample : w.sampleAt v p = (sample, { w with draws := d }))
    (hu : w.advance v .vol false = .ok (q, u)) (f : Nat) :
    s.voiceFrame v f = .ok (({ u with draws := d } : State).accumulate f (u.voice v).panPosition
      (roundExact u.params.numerics .gain (sample.mul (volEntry w.params (volIndex q))))) := by
  have hg : s.getSample v = .ok (sample, { w with draws := d }) := by
    rw [State.getSample_of_advance hw, hsample]
  have hp : ({ w with draws := d } : State).popVolScalar v =
      .ok (volEntry w.params (volIndex q), { u with draws := d }) := by
    rw [State.popVolScalar, State.advance_setDraws hu d]
  simp only [State.voiceFrame, hrun, Bool.false_eq_true, if_false, hg, hp]
  rfl

theorem State.voiceFrame_of_wave_error (hrun : (s.voice v).silent = false)
    (hw : s.advance v .wave (s.voice v).rollover = .error e) (f : Nat) : s.voiceFrame v f = .error e := by
  simp only [State.voiceFrame, hrun, Bool.false_eq_true, if_false, State.getSample, hw]

theorem State.voiceFrame_of_vol_error (hrun : (s.voice v).silent = false)
    (hw : s.advance v .wave (s.voice v).rollover = .ok (p, w))
    (hu : w.advance v .vol false = .error e) (f : Nat) : s.voiceFrame v f = .error e := by
  obtain ⟨sample, hsample, -⟩ := w.sampleAt_eq v p
  simp only [State.voiceFrame, hrun, Bool.false_eq_true, if_false, State.getSample_of_advance hw, hsample,
    State.popVolScalar, State.advance_setDraws_error hu]

theorem State.accumulate_eq_set {f : Nat} {a : Frame} (h : s.acc[f]? = some a) (pos : Fin 16) (x : Exact) :
    s.accumulate f pos x = { s with acc := s.acc.set f (a.add s.params pos x) } := by
  rw [State.accumulate, List.modify_eq_set_getElem?, h]
  rfl

/-- The volume position that a frame uses is that before the frame, as the wave advance leaves it alone. -/
theorem State.vol_of_advance_wave {suppress : Bool} (h : s.advance v .wave suppress = .ok (p, w)) :
    (w.voice v).vol = (s.voice v).vol := by
  obtain ⟨t', hvoice, -⟩ := State.voice_of_advance h
  rw [hvoice]
  rfl

theorem State.wave_of_advance_vol {suppress : Bool} (h : s.advance v .vol suppress = .ok (p, w)) :
    (w.voice v).wave = (s.voice v).wave := by
  obtain ⟨t', hvoice, -⟩ := State.voice_of_advance h
  rw [hvoice]
  rfl

theorem State.panPosition_of_advance {axis : Axis} {suppress : Bool}
    (h : s.advance v axis suppress = .ok (p, w)) : (w.voice v).panPosition = (s.voice v).panPosition := by
  obtain ⟨t', hvoice, -⟩ := State.voice_of_advance h
  rw [hvoice, Voice.setTrack_panPosition]

/-- A frame under exact numerics, from the sample it fetches. -/
theorem State.voiceFrame_adds {f : Nat} {a : Frame} (hn : s.params.numerics = .exact)
    (ha : s.acc[f]? = some a) (hrun : (s.voice v).silent = false)
    (hw : s.advance v .wave (s.voice v).rollover = .ok (p, w)) {sample : Exact} {d : Nat}
    (hsample : w.sampleAt v p = (sample, { w with draws := d }))
    (hu : w.advance v .vol false = .ok (q, u)) :
    ∃ b : Frame, b.IsSum a s.params (s.voice v).panPosition
        (sample.toReal * (volEntry s.params (volIndex q)).toReal) ∧
      s.voiceFrame v f = .ok { u with acc := s.acc.set f b, draws := d } := by
  obtain ⟨-, hwparams, hwacc, -⟩ := State.advance_keeps hw
  obtain ⟨-, huparams, huacc, -⟩ := State.advance_keeps hu
  have hparams : u.params = s.params := huparams.trans hwparams
  have hacc : u.acc = s.acc := huacc.trans hwacc
  have hpan : (u.voice v).panPosition = (s.voice v).panPosition :=
    (State.panPosition_of_advance hu).trans (State.panPosition_of_advance hw)
  refine ⟨a.add s.params (s.voice v).panPosition (sample.mul (volEntry s.params (volIndex q))), ?_, ?_⟩
  · rw [← Exact.toReal_mul]
    exact Frame.isSum_add a hn _ _
  · rw [State.voiceFrame_of_advances hrun hw hsample hu,
      State.accumulate_eq_set (s := { u with draws := d }) (hacc ▸ ha)]
    simp only [hacc, hparams, hpan, hwparams, hn]
    rfl

end Frame

/-- Settles O48: a frame is its two advances, with the sample between them; a stopped wave track and one that
runs in place are advances that write nothing. -/
theorem voiceFrameAddsTheScaledSample : Obligations.VoiceFrameAddsTheScaledSample := by
  intro s v f a x gain hn ha hactive first
  have hrun : (s.voice v).silent = false := (Voice.silent_eq_false_iff _).mpr hactive
  have hfirst : first = s.advance v .wave (s.voice v).rollover := by rw [Voice.rollover_eq]
  rw [hfirst]
  refine ⟨fun p w q u hw hu => ?_, fun e hw => State.voiceFrame_of_wave_error hrun hw f,
    fun p w e hw hu => State.voiceFrame_of_vol_error hrun hw hu f, fun hstop hpos q u hu => ?_,
    fun hf hheld hinc hpos hend hfrac => ?_⟩
  · obtain ⟨rfl, -⟩ := State.advance_cases hw
    obtain ⟨hq, -⟩ := State.advance_cases hu
    obtain rfl : q = x.vol.pos := hq.trans (congrArg Track.pos (State.vol_of_advance_wave hw))
    obtain ⟨-, hparams, -, hdraws⟩ := State.advance_keeps hw
    obtain ⟨sample, hsample, hinterp, hrange⟩ := w.sampleAt_eq v x.wave.pos
    obtain ⟨b, hsum, hframe⟩ := State.voiceFrame_adds hn ha hrun hw hsample hu
    rw [hdraws] at hframe
    refine ⟨rfl, rfl, sample.toReal, b, fun h0 => ?_, hrange (hparams ▸ hn), hsum, hframe⟩
    rw [hinterp h0, State.interp_of_advance hw]
  · have hw := State.advance_of_disabled (s := s) (v := v) (axis := .wave)
      (Track.disabled_eq_true hstop) (s.voice v).rollover
    obtain ⟨rfl, -⟩ := State.advance_cases hu
    obtain ⟨b, hsum, hframe⟩ := State.voiceFrame_adds (d := s.draws) hn ha hrun hw
      (State.sampleAt_of_nonneg hpos s v) hu
    obtain ⟨-, -, -, hdraws⟩ := State.advance_keeps hu
    exact ⟨b, hsum, by rw [hframe, ← hdraws], State.wave_of_advance_vol hu⟩
  · have hw := State.advance_in_place (s := s) (v := v) (axis := .wave)
      (suppress := (s.voice v).rollover) hf hinc hend
    have hu := State.advance_of_disabled (s := s) (v := v) (axis := .vol)
      (Track.disabled_eq_true hheld) false
    obtain ⟨b, hsum, hframe⟩ := State.voiceFrame_adds (d := s.draws) hn ha hrun hw
      (State.sampleAt_of_nonneg hpos s v) hu
    refine ⟨b, ?_, hframe⟩
    rwa [State.toReal_interp_of_skip (.inr ?_)] at hsum
    omega

/-! #### The part of one voice (R199, R200)

All that a frame of a voice reads and writes of the block but for sample, accumulator and draws, as a machine
of its own: what the voice engine does is then one such run for each active voice. -/

/-- A voice with its two pending bits. -/
structure VoicePart where
  voice : Voice
  wavePending : Bool
  volPending : Bool

def State.part (s : State) (v : Fin 32) : VoicePart :=
  ⟨s.voice v, s.waveState.getLsbD v.val, s.volState.getLsbD v.val⟩

namespace VoicePart

/-- The pending bit of an axis, set if `raised`. -/
def signal (x : VoicePart) (axis : Axis) (raised : Bool) : VoicePart :=
  match axis with
  | .wave => { x with wavePending := x.wavePending || raised }
  | .vol => { x with volPending := x.volPending || raised }

/-- `State.advance` on the part of its voice. -/
def advance (x : VoicePart) (axis : Axis) (suppress : Bool) : Except Fault VoicePart :=
  if (x.voice.track axis).disabled then .ok x
  else ((x.voice.track axis).next suppress).map fun t =>
    signal { x with voice := x.voice.setTrack axis t } axis (x.voice.track axis).signals

/-- `State.voiceFrame` on the part of its voice. -/
def frame (x : VoicePart) : Except Fault VoicePart :=
  if x.voice.silent then .ok x
  else x.advance .wave x.voice.rollover >>= fun y => y.advance .vol false

/-- `State.voiceBatch` on the part of its voice. -/
def frames (x : VoicePart) : Nat → Except Fault VoicePart
  | 0 => .ok x
  | n + 1 => x.frames n >>= frame

theorem frames_one (x : VoicePart) : x.frames 1 = x.frame := rfl

/-- The first frame of a batch apart. -/
theorem frames_succ (x : VoicePart) : ∀ n, x.frames (n + 1) = x.frame >>= fun y => y.frames n
  | 0 => (bind_pure x.frame).symm
  | n + 1 => by
    rw [frames, frames_succ x n, bind_assoc]
    rfl

end VoicePart

/-- The voices and the pending masks are the parts of the 32 voices. -/
theorem State.eq_of_part_eq {s t : State} (h : ∀ v, t.part v = s.part v) :
    t.voices = s.voices ∧ t.waveState = s.waveState ∧ t.volState = s.volState := by
  simp only [State.part, VoicePart.mk.injEq] at h
  refine ⟨Vector.ext fun k hk => (h ⟨k, hk⟩).1, BitVec.eq_of_getLsbD_eq fun k hk => ?_,
    BitVec.eq_of_getLsbD_eq fun k hk => ?_⟩
  · exact (h ⟨k, hk⟩).2.1
  · exact (h ⟨k, hk⟩).2.2

section Part

variable {s t : State} {v u : Fin 32}

theorem OnlyVoice.part_eq (h : OnlyVoice v s t) (hu : u ≠ v) : t.part u = s.part u := by
  obtain ⟨hvoice, hwave, hvol⟩ := h u hu
  rw [State.part, hvoice, hwave, hvol, State.part]

/-- The pending bit of its own voice after an advance. -/
theorem getLsbD_signalled_self (p : Word) (v : Fin 32) (raised : Bool) :
    (signalled p v raised).getLsbD v.val = (p.getLsbD v.val || raised) := by
  rw [getLsbD_signalled, beq_self_eq_true, Bool.true_and]

/-- What an advance writes, on the part of its voice. -/
theorem State.part_setTrack (s : State) (v : Fin 32) (axis : Axis) (x : Voice) (raised : Bool) :
    ((s.setVoice v x).setPending axis (signalled (s.pending axis) v raised)).part v =
      VoicePart.signal { s.part v with voice := x } axis raised := by
  cases axis
  · simp only [State.part, State.setPending_voice, State.voice_setVoice, State.setPending_wave_waveState,
      getLsbD_signalled_self]
    rfl
  · simp only [State.part, State.setPending_voice, State.voice_setVoice, State.setPending_vol_volState,
      getLsbD_signalled_self]
    rfl

theorem State.part_advance (s : State) (v : Fin 32) (axis : Axis) (suppress : Bool) :
    (s.advance v axis suppress).map (fun r => r.2.part v) = (s.part v).advance axis suppress := by
  have hvoice : (s.part v).voice = s.voice v := rfl
  rw [VoicePart.advance, hvoice]
  cases hd : ((s.voice v).track axis).disabled with
  | true => rw [State.advance_of_disabled hd]; rfl
  | false =>
    cases hn : ((s.voice v).track axis).next suppress with
    | error e => rw [State.advance_of_error hd hn]; rfl
    | ok t' =>
      rw [State.advance_of_next hd hn]
      exact congrArg Except.ok (State.part_setTrack s v axis _ _)

theorem State.part_voiceFrame (s : State) (v : Fin 32) (f : Nat) :
    (s.voiceFrame v f).map (fun t => t.part v) = (s.part v).frame := by
  have hvoice : (s.part v).voice = s.voice v := rfl
  rw [VoicePart.frame, hvoice]
  cases hrun : (s.voice v).silent with
  | true => rw [State.voiceFrame_of_silent hrun]; rfl
  | false =>
    rw [← State.part_advance]
    cases hw : s.advance v .wave (s.voice v).rollover with
    | error e => rw [State.voiceFrame_of_wave_error hrun hw]; rfl
    | ok r =>
      obtain ⟨p, w⟩ := r
      change _ = (w.part v).advance .vol false
      rw [← State.part_advance]
      cases hu : w.advance v .vol false with
      | error e => rw [State.voiceFrame_of_vol_error hrun hw hu]; rfl
      | ok r =>
        obtain ⟨sample, hsample, -⟩ := w.sampleAt_eq v p
        rw [State.voiceFrame_of_advances hrun hw hsample hu]
        rfl

theorem State.part_voiceBatch (s : State) (v : Fin 32) : ∀ n,
    (s.voiceBatch v n).map (fun t => t.part v) = (s.part v).frames n
  | 0 => rfl
  | n + 1 => by
    rw [State.voiceBatch, VoicePart.frames, ← State.part_voiceBatch s v n]
    cases s.voiceBatch v n with
    | error e => rfl
    | ok t => exact State.part_voiceFrame t v n

/-- A batch of a voice leaves the part of every other one. -/
theorem State.voiceBatch_part_ne {n : Nat} (h : s.voiceBatch v n = .ok t) (hu : u ≠ v) :
    t.part u = s.part u :=
  (State.voiceBatch_induction (OnlyVoice.refl v) OnlyVoice.trans State.voiceFrame_onlyVoice h).part_eq hu

/-- The part of a voice after `n` frames of the voices below `k`. -/
def State.renderedBelow (s : State) (k n : Nat) (v : Fin 32) : Except Fault VoicePart :=
  if v.val < k then (s.part v).frames n else .ok (s.part v)

/-- One voice more, in terms of the state in which its batch begins. -/
theorem State.renderedBelow_succ {k : Nat} (hk : k < 32) (n : Nat)
    (h : ∀ v, s.renderedBelow k n v = .ok (t.part v)) :
    s.renderedBelow (k + 1) n ⟨k, hk⟩ = (t.part ⟨k, hk⟩).frames n ∧
      ∀ v, v ≠ ⟨k, hk⟩ → s.renderedBelow (k + 1) n v = .ok (t.part v) := by
  constructor
  · have hpart := h ⟨k, hk⟩
    rw [State.renderedBelow, if_neg (lt_irrefl k), Except.ok.injEq] at hpart
    rw [State.renderedBelow, if_pos (Nat.lt_succ_self k), hpart]
  · intro v hv
    have hne : v.val ≠ k := fun e => hv (Fin.ext e)
    have hiff : v.val < k + 1 ↔ v.val < k := by omega
    rw [← h v, State.renderedBelow, State.renderedBelow, if_congr hiff rfl rfl]

theorem State.renderedBelow_of_le {k : Nat} (hk : k ≤ v.val) (n : Nat) :
    s.renderedBelow k n v = .ok (s.part v) :=
  if_neg (not_lt.mpr hk)

theorem State.renderedBelow_of_lt {k : Nat} (hk : v.val < k) (n : Nat) :
    s.renderedBelow k n v = (s.part v).frames n :=
  if_pos hk

/-- A fault of a voice is one of every batch of more voices. -/
theorem State.renderedBelow_error {k k' n : Nat} {e : Fault} (hk : k ≤ k')
    (h : s.renderedBelow k n v = .error e) : s.renderedBelow k' n v = .error e := by
  by_cases hv : v.val < k
  · rwa [State.renderedBelow_of_lt (hv.trans_le hk), ← State.renderedBelow_of_lt hv]
  · rw [State.renderedBelow_of_le (not_lt.mp hv)] at h
    cases h

@[simp] theorem State.part_output (s : State) (v : Fin 32) : s.output.part v = s.part v := by
  rw [State.output_eq]
  rfl

@[simp] theorem State.part_checkVoiceIrq (s : State) (v : Fin 32) : s.checkVoiceIrq.part v = s.part v := by
  rw [State.checkVoiceIrq_eq]
  rfl

end Part

/-! #### The result of a `SEQ` step by its parts -/

/-- The answer of a `SEQ` step: a fault is that of the voice engine. -/
def Result.ofExcept : Except Fault State → Result
  | .ok t => .next t
  | .error e => .fault e

/-- The parts of an answer are `R`: all of them, or the fault of one. -/
def Renders (R : Fin 32 → Except Fault VoicePart) : Result → Prop
  | .next t => ∀ v, R v = .ok (t.part v)
  | .fault e => ∃ v, R v = .error e
  | .refused _ => False

/-- Answers with one and the same parts: they complete together, with the same voices. -/
theorem Renders.agree {R : Fin 32 → Except Fault VoicePart} {t : State} {r : Result}
    (ht : Renders R (.next t)) (hr : Renders R r) : ∃ u, r = .next u ∧ ∀ v, u.part v = t.part v := by
  cases r with
  | next u => exact ⟨u, rfl, fun v => Except.ok.inj ((hr v).symm.trans (ht v))⟩
  | fault e =>
    obtain ⟨v, hv⟩ := hr
    cases (ht v).symm.trans hv
  | refused e => exact hr.elim

/-- R199: the voices share nothing that a frame reads, so each is rendered as if alone. -/
theorem State.renders_voicesBatch (s : State) (n : Nat) : ∀ k,
    Renders (s.renderedBelow k n) (Result.ofExcept (s.voicesBatch n k))
  | 0 => fun v => State.renderedBelow_of_le (Nat.zero_le v.val) n
  | k + 1 => by
    have ih := State.renders_voicesBatch s n k
    rw [State.voicesBatch]
    cases hb : s.voicesBatch n k with
    | error e =>
      rw [hb] at ih
      obtain ⟨v, hv⟩ := ih
      exact ⟨v, State.renderedBelow_error k.le_succ hv⟩
    | ok t =>
      rw [hb] at ih
      by_cases hk : k < 32
      · obtain ⟨hself, hother⟩ := State.renderedBelow_succ hk n ih
        rw [← State.part_voiceBatch] at hself
        simp only [dif_pos hk]
        cases hv : t.voiceBatch ⟨k, hk⟩ n with
        | error e => exact ⟨⟨k, hk⟩, by rw [hself, hv]; rfl⟩
        | ok u =>
          intro v
          by_cases he : v = ⟨k, hk⟩
          · subst he
            rw [hself, hv]
            rfl
          · rw [hother v he, State.voiceBatch_part_ne hv he]
      · simp only [dif_neg hk]
        intro v
        rw [← ih v, State.renderedBelow_of_lt (by omega), State.renderedBelow_of_lt (by omega)]

theorem seqStep_of_outputEnabled {s : State} (h : s.outputEnabled = true) (n : Nat) :
    seqStep n s = Result.ofExcept
      ((({ s with acc := List.replicate n ⟨.zero, .zero⟩ } : State).voicesBatch n s.activeVoices).map
        fun u => u.output.checkVoiceIrq) := by
  rw [seqStep, if_pos h]
  cases ({ s with acc := List.replicate n ⟨.zero, .zero⟩ } : State).voicesBatch n s.activeVoices <;> rfl

/-- How many voices a `SEQ` step renders (R195, R196). -/
def State.renderCount (s : State) : Nat := if s.outputEnabled then s.activeVoices else 0

/-- The part of a voice after a `SEQ` step of `n` frames. -/
def State.rendered (s : State) (n : Nat) (v : Fin 32) : Except Fault VoicePart :=
  s.renderedBelow s.renderCount n v

theorem State.rendered_of_activeVoices_le {s : State} {v : Fin 32} (h : s.activeVoices ≤ v.val) (n : Nat) :
    s.rendered n v = .ok (s.part v) := by
  refine State.renderedBelow_of_le ?_ n
  rw [State.renderCount]
  split
  · exact h
  · exact Nat.zero_le _

/-- The output stage and the aggregation leave the voices' parts alone. -/
theorem renders_seqStep (s : State) (n : Nat) : Renders (s.rendered n) (seqStep n s) := by
  unfold State.rendered State.renderCount
  cases ho : s.outputEnabled with
  | false =>
    rw [seqStep_of_outputDisabled ho]
    exact fun v => State.renderedBelow_of_le (Nat.zero_le v.val) n
  | true =>
    rw [seqStep_of_outputEnabled ho]
    have h := State.renders_voicesBatch { s with acc := List.replicate n ⟨.zero, .zero⟩ } n s.activeVoices
    cases hb : ({ s with acc := List.replicate n ⟨.zero, .zero⟩ } : State).voicesBatch n s.activeVoices with
    | error e =>
      rw [hb] at h
      exact h
    | ok u =>
      rw [hb] at h
      intro v
      rw [State.part_checkVoiceIrq, State.part_output]
      exact h v

/-! #### The `SEQ` step (R196) -/

/-- The outer loop. -/
theorem State.voicesBatch_eq_foldlM (s : State) (n : Nat) : ∀ k,
    s.voicesBatch n k = ((List.finRange 32).take k).foldlM (fun (t : State) v => t.voiceBatch v n) s
  | 0 => rfl
  | k + 1 => by
    rw [State.voicesBatch, List.take_add_one, List.foldlM_append, ← State.voicesBatch_eq_foldlM s n k]
    cases s.voicesBatch n k with
    | error e => rfl
    | ok t =>
      by_cases hk : k < 32
      · have hget : (List.finRange 32)[k]? = some ⟨k, hk⟩ := by simp [hk]
        simp only [dif_pos hk, hget, Option.toList_some, List.foldlM_cons, List.foldlM_nil]
        exact (bind_pure _).symm
      · have hget : (List.finRange 32)[k]? = none := by simpa using hk
        simp only [dif_neg hk, hget]
        rfl

/-- All that a `SEQ` step writes. -/
theorem seqStep_writes {s t : State} {n : Nat} (h : seqStep n s = .next t) : t = { s with
    voices := t.voices, waveState := t.waveState, volState := t.volState, status := t.status
    irqStatus := t.irqStatus, acc := t.acc, peakLeft := t.peakLeft, peakRight := t.peakRight
    out := t.out, draws := t.draws } := by
  obtain ⟨-, rfl⟩ | ⟨u, -, hu, rfl⟩ := seqStep_cases h
  · rfl
  · obtain ⟨_, _, _, _, _, rfl⟩ := State.voicesBatch_writes hu
    rw [State.checkVoiceIrq_eq, State.output_eq]

/-- Settles O49: the two loops are folds, and the parts and the frame of a `SEQ` step say what stays. -/
theorem sequencerRendersTheActiveVoicesThenOutputs :
    Obligations.SequencerRendersTheActiveVoicesThenOutputs := by
  refine fun s n => ⟨fun ho => ?_, fun t h => ⟨fun v hv => ?_, seqStep_writes h⟩⟩
  · simp only [seqStep_of_outputEnabled ho, ← State.voiceBatch_eq_foldlM, ← State.voicesBatch_eq_foldlM]
    have hzero : Exact.ofRat 0 = Exact.zero := rfl
    rw [hzero]
    cases ({ s with acc := List.replicate n ⟨.zero, .zero⟩ } : State).voicesBatch n s.activeVoices <;> rfl
  · have hpart := h ▸ renders_seqStep s n
    have hv' := (State.rendered_of_activeVoices_le hv n).symm.trans (hpart v)
    simp only [Except.ok.injEq, State.part, VoicePart.mk.injEq] at hv'
    obtain ⟨hvoice, hwave, hvol⟩ := hv'
    exact ⟨hvoice.symm, hwave.symm, hvol.symm⟩

/-! #### Batches and single frames (R200) -/

/-- The parts after `n + 1` frames, from the state after the first. -/
theorem State.rendered_succ {s t : State} (h : seqStep 1 s = .next t) (n : Nat) (v : Fin 32) :
    s.rendered (n + 1) v = t.rendered n v := by
  have hone : s.rendered 1 v = .ok (t.part v) := (h ▸ renders_seqStep s 1) v
  have hcount : t.renderCount = s.renderCount := by rw [seqStep_writes h]; rfl
  unfold State.rendered at hone ⊢
  rw [hcount]
  by_cases hv : v.val < s.renderCount
  · rw [State.renderedBelow_of_lt hv, VoicePart.frames_one] at hone
    rw [State.renderedBelow_of_lt hv, State.renderedBelow_of_lt hv, VoicePart.frames_succ, hone]
    rfl
  · rw [State.renderedBelow_of_le (not_lt.mp hv)] at hone ⊢
    rw [State.renderedBelow_of_le (not_lt.mp hv), hone]

/-- A fault of the first frame is one of the batch. -/
theorem State.rendered_succ_error {s : State} {v : Fin 32} {e : Fault} (h : s.rendered 1 v = .error e)
    (n : Nat) : s.rendered (n + 1) v = .error e := by
  unfold State.rendered at h ⊢
  by_cases hv : v.val < s.renderCount
  · rw [State.renderedBelow_of_lt hv, VoicePart.frames_one] at h
    rw [State.renderedBelow_of_lt hv, VoicePart.frames_succ, h]
    rfl
  · rw [State.renderedBelow_of_le (not_lt.mp hv)] at h
    cases h

theorem renders_seqSingly : ∀ (n : Nat) (s : State), Renders (s.rendered n) (seqSingly n s)
  | 0, s => fun v => by
    unfold State.rendered State.renderedBelow
    split <;> rfl
  | n + 1, s => by
    have hone := renders_seqStep s 1
    rw [seqSingly]
    cases h : seqStep 1 s with
    | next t =>
      rw [funext (State.rendered_succ h n)]
      exact renders_seqSingly n t
    | fault e =>
      rw [h] at hone
      obtain ⟨v, hv⟩ := hone
      exact ⟨v, State.rendered_succ_error hv n⟩
    | refused e =>
      rw [h] at hone
      exact hone

/-- Settles O50: a batch and its single frames give every voice the same part. -/
theorem oneBatchEqualsSingleFrames : Obligations.OneBatchEqualsSingleFrames := by
  refine fun s n => ⟨fun t ht => ?_, fun u hu => ?_⟩
  · obtain ⟨u, hu, hpart⟩ := (ht ▸ renders_seqStep s n).agree (renders_seqSingly n s)
    exact ⟨u, hu, State.eq_of_part_eq hpart⟩
  · obtain ⟨t, ht, -⟩ := (hu ▸ renders_seqSingly n s).agree (renders_seqStep s n)
    exact ⟨t, ht⟩

end Sys2Proof.Machine

/-! ### Voice registers (`44_voice_registers.md` R210 to R246) -/

namespace Sys2Proof.Machine

/-! #### The precondition (R210, R230) -/

section Access

variable {s : State}

theorem voiceWrite_of_selected (h : s.voiceSelected = true) (t : State) : voiceWrite s t = .next t := by
  rw [voiceWrite_eq, if_pos h]

theorem voiceWrite_of_not_selected (h : s.voiceSelected = false) (t : State) :
    voiceWrite s t = .next s := by
  rw [voiceWrite_eq, h, if_neg Bool.false_ne_true]

theorem voiceRead_of_selected (h : s.voiceSelected = true) (noVoice r : Half) :
    voiceRead s noVoice r = .next { s with reply := .half r } := by
  rw [voiceRead_eq, if_pos h]

theorem voiceRead_of_not_selected (h : s.voiceSelected = false) (noVoice r : Half) :
    voiceRead s noVoice r = .next { s with reply := .half noVoice } := by
  rw [voiceRead_eq, h, if_neg Bool.false_ne_true]

@[simp] theorem State.cur_setCur (s : State) (x : Voice) : (s.setCur x).cur = x :=
  s.voice_setVoice s.voiceIndex x

end Access

/-- Settles O16: each access is a `voiceWrite` or a `voiceRead` with its own delivered value. -/
theorem voiceAccessesWithoutAVoice : Obligations.VoiceAccessesWithoutAVoice := by
  refine fun s d h => ⟨fun i hi => ?writes, fun i hi => ?controls, fun i hi => ?others⟩
  all_goals simp only [List.mem_cons, List.not_mem_nil, or_false] at hi
  case writes =>
    rcases hi with rfl | rfl | rfl | rfl | rfl | rfl | rfl | rfl | rfl | rfl | rfl | rfl | rfl | rfl
    all_goals exact voiceWrite_of_not_selected h _
  case controls =>
    rcases hi with rfl | rfl
    all_goals exact voiceRead_of_not_selected h _ _
  case others =>
    rcases hi with rfl | rfl | rfl | rfl | rfl | rfl | rfl | rfl | rfl | rfl | rfl | rfl
    all_goals exact voiceRead_of_not_selected h _ _

/-! #### The wave registers (R212, R226, R233 to R237, R242, R243) -/

/-- Settles O17: the increment of the model is the one that R212 gives by value. -/
theorem waveRateWrite : Obligations.WaveRateWrite := fun _ d h =>
  ⟨waveIncrement d, toInt_waveIncrement d, voiceWrite_of_selected h _⟩

/-- A word shifted up into a wider one stands above zeros. -/
theorem setWidth_shiftLeft_eq_append {n : Nat} (x : BitVec n) (m : Nat) :
    x.setWidth (n + m) <<< m = x ++ 0#m := by
  rw [BitVec.append_def, BitVec.shiftLeftZeroExtend_eq, BitVec.setWidth'_eq, BitVec.setWidth_zero,
    BitVec.or_zero]

theorem mswOf_eq_setWidth (f : S32) : mswOf f = (f.word >>> 16).setWidth 16 := by
  apply BitVec.eq_of_getLsbD_eq
  intro k hk
  have hhigh : ¬ 16 + k < 16 := by omega
  rw [mswOf, S32.word, BitVec.getLsbD_setWidth, BitVec.getLsbD_ushiftRight, BitVec.getLsbD_append,
    if_neg hhigh, Nat.add_sub_cancel_left, decide_eq_true hk, Bool.true_and]

theorem lswOf_eq_setWidth (f : S32) : lswOf f = f.word.setWidth 16 :=
  BitVec.setWidth_append_eq_right.symm

/-- The pattern after `SetMsw` (R226). -/
theorem word_setMsw (f : S32) (d : Half) :
    (setMsw f d).word = ((d &&& 0x1FFF#16).setWidth 32 <<< 16) ||| (f.word &&& 0x0000FFFF#32) := by
  have hmask : (0x0000FFFF#32 : Word) = 0#16 ++ BitVec.allOnes 16 := by decide
  have hmsw : (d &&& 0x1FFF#16).setWidth 32 <<< 16 = (d &&& 0x1FFF#16) ++ 0#16 :=
    setWidth_shiftLeft_eq_append _ 16
  have hword : f.word = f.hi ++ f.lo := rfl
  rw [hmsw, hmask, hword, BitVec.and_append, BitVec.or_append, BitVec.and_zero, BitVec.or_zero,
    BitVec.zero_or, BitVec.and_allOnes]
  rfl

/-- The pattern after `SetLsw` (R226). -/
theorem word_setLsw (f : S32) (d : Half) :
    (setLsw f d).word = (f.word &&& 0xFFFF0000#32) ||| d.setWidth 32 := by
  have hmask : (0xFFFF0000#32 : Word) = BitVec.allOnes 16 ++ 0#16 := by decide
  have hlsw : d.setWidth 32 = 0#16 ++ d := BitVec.setWidth_eq_append (by decide)
  have hword : f.word = f.hi ++ f.lo := rfl
  rw [hlsw, hmask, hword, BitVec.and_append, BitVec.or_append, BitVec.and_zero, BitVec.or_zero,
    BitVec.zero_or, BitVec.and_allOnes]
  rfl

/-- Settles O18: the two formulas determine the whole pattern, so they are `SetMsw` and `SetLsw`. -/
theorem waveAddressWrites : Obligations.WaveAddressWrites := by
  intro s d h msw lsw hmsw hlsw
  obtain rfl : msw = fun f => setMsw f d :=
    funext fun f => S32.word_injective ((hmsw f).trans (word_setMsw f d).symm)
  obtain rfl : lsw = fun f => setLsw f d :=
    funext fun f => S32.word_injective ((hlsw f).trans (word_setLsw f d).symm)
  refine ⟨?_, ?_, ?_, ?_, ?_, ?_⟩
  all_goals exact voiceWrite_of_selected h _

/-- Settles O22: the delivered halves are those of the pattern. -/
theorem waveReadbacks : Obligations.WaveReadbacks := by
  intro s h
  simp only [← mswOf_eq_setWidth, ← lswOf_eq_setWidth]
  refine ⟨?_, ?_, ?_, ?_, ?_, ?_, ?_⟩
  all_goals exact voiceRead_of_selected h _ _

/-! #### The bytes of a voice register (R217, R238) -/

theorem dataByte_eq_setWidth (d : Half) : dataByte d = (d >>> 8).setWidth 8 := highByte_eq_setWidth d

theorem setWidth_dataByte (d : Half) : (dataByte d).setWidth 16 = d >>> 8 := by
  apply BitVec.eq_of_toNat_eq
  have hd := d.isLt
  rw [BitVec.toNat_setWidth, toNat_dataByte, BitVec.toNat_ushiftRight, Nat.shiftRight_eq_div_pow]
  omega

theorem inHighByte_eq_shiftLeft (b : Byte) : inHighByte b = b.setWidth 16 <<< 8 :=
  (setWidth_shiftLeft_eq_append b 8).symm

/-- An 8-bit register keeps the high byte of what is written (`30_encoding.md` R98). -/
theorem inHighByte_dataByte (d : Half) : inHighByte (dataByte d) = d &&& 0xFF00#16 := by
  have hmask : 0xFF00#16 = BitVec.allOnes 8 ++ 0#8 := by decide
  conv_rhs =>
    rw [hmask, ← joinBytes_high_low d, joinBytes, BitVec.and_append, BitVec.and_allOnes, BitVec.and_zero]
  rfl

theorem toNat_inHighByte (b : Byte) : (inHighByte b).toNat = b.toNat * 256 := by
  have hb := b.isLt
  rw [inHighByte_eq_shiftLeft, BitVec.toNat_shiftLeft, BitVec.toNat_setWidth, Nat.shiftLeft_eq]
  omega

@[simp] theorem setWidth_inHighByte (b : Byte) : (inHighByte b).setWidth 8 = 0#8 :=
  BitVec.setWidth_append_eq_right

@[simp] theorem dataByte_inHighByte (b : Byte) : dataByte (inHighByte b) = b := highByte_joinBytes b 0

/-! #### Volume fields (R217 to R220, R239 to R241) -/

theorem ceilDiv_of_dvd {a b : Int} (h : b ∣ a) : ceilDiv a b = a / b := by
  rw [ceilDiv, Int.neg_ediv_of_dvd h, neg_neg]

theorem ceilDiv_mul_cancel {a b : Int} (hb : b ≠ 0) : ceilDiv (a * b) b = a := by
  rw [ceilDiv_of_dvd (Int.dvd_mul_left a b), Int.mul_ediv_cancel a hb]

theorem toInt_ofInt_natCast {n : Nat} (h : n ≤ 2147483647) : (S32.ofInt n).toInt = n :=
  S32.toInt_ofInt (by omega) (by omega)

/-- `VolInc` (`42_volume.md` R171): `8 ^ bank` is at most 512, so that nothing is rounded. -/
theorem toInt_volInc (b : Byte) :
    (volInc b).toInt = (b.toNat % 64 * 512 / 8 ^ (b.toNat / 64) : Nat) := by
  have hb := b.isLt
  have hmag : (b.extractLsb' 0 6).toNat = b.toNat % 64 := by
    rw [BitVec.extractLsb'_toNat, Nat.shiftRight_zero]
  have hbank : (b.extractLsb' 6 2).toNat = b.toNat / 64 := by
    rw [BitVec.extractLsb'_toNat, Nat.shiftRight_eq_div_pow]
    omega
  have hpow : 8 ^ (b.toNat / 64) ∣ 512 := pow_dvd_pow 8 (n := 3) (by omega)
  have hdvd : 8 ^ (b.toNat / 64) ∣ b.toNat % 64 * 512 := Dvd.dvd.mul_left hpow _
  have hle := Nat.div_le_self (b.toNat % 64 * 512) (8 ^ (b.toNat / 64))
  have hceil : ceilDiv ((b.toNat % 64 : Nat) * 512) (8 ^ (b.toNat / 64)) =
      (b.toNat % 64 * 512 / 8 ^ (b.toNat / 64) : Nat) := by
    rw [ceilDiv_of_dvd (by exact_mod_cast hdvd)]
    norm_cast
  rw [volInc, hmag, hbank, hceil, toInt_ofInt_natCast (hle.trans (by omega))]

theorem toInt_volCurrentOf (d : Half) : (volCurrentOf d).toInt = (d.toNat / 16 * 512 : Nat) := by
  have hd := d.isLt
  have hindex : (d.extractLsb' 4 12).toNat = d.toNat / 16 := by
    rw [BitVec.extractLsb'_toNat, Nat.shiftRight_eq_div_pow]
    omega
  rw [volCurrentOf, hindex, toInt_ofInt_natCast (by omega)]

/-- Settles O19: the three fields of the model have the values that R171 and R218 to R220 give. -/
theorem volumeWrites : Obligations.VolumeWrites := by
  intro s d h
  refine ⟨volInc (dataByte d), volBound (dataByte d), volCurrentOf d, ?inc, ?bound,
    toInt_volCurrentOf d, ?rate, ?_, ?_, ?_⟩
  case inc => rw [toInt_volInc, toNat_dataByte, Nat.div_div_eq_div_mul]
  case bound => rw [toInt_volBound, toNat_dataByte]
  case rate =>
    rw [← setWidth_dataByte]
    exact voiceWrite_of_selected h _
  all_goals exact voiceWrite_of_selected h _

/-- A bound byte reads back from its field, the division being exact (R239). -/
theorem volBoundReadback_of_toInt {f : S32} {b : Byte} (h : f.toInt = (b.toNat * 16 * 512 : Nat)) :
    volBoundReadback f = inHighByte b := by
  have hb := b.isLt
  have hbyte : f.toInt / 512 / 16 * 256 = (b.toNat * 256 : Nat) := by omega
  apply BitVec.eq_of_toNat_eq
  rw [volBoundReadback, hbyte, toNat_inHighByte, BitVec.ofInt_natCast, BitVec.toNat_ofNat]
  omega

/-- A position on a table index gives that index (`42_volume.md` R173). -/
theorem volIndex_of_toInt {f : S32} {n : Nat} (h : f.toInt = (n * 512 : Nat)) (hn : n ≤ 4095) :
    volIndex f = n := by
  rw [volIndex, h, Nat.cast_mul, Nat.cast_ofNat, ceilDiv_mul_cancel (by decide),
    clamp_of_mem (by omega) (by omega), Int.toNat_natCast]

/-! #### Pan (R223, R244) -/

theorem val_panValue_saturate (b : Byte) : (panValue .saturate b).val = min b.toNat 15 :=
  Nat.mod_eq_of_lt (by omega)

theorem val_panValue_low4 (b : Byte) : (panValue .low4 b).val = b.toNat % 16 := by
  change (b.extractLsb' 0 4).toNat = b.toNat % 16
  rw [BitVec.extractLsb'_toNat, Nat.shiftRight_zero]

/-- Settles O20: the position by its value in each of the two modes. -/
theorem panWrite : Obligations.PanWrite := by
  refine fun s d h => ⟨panValue s.params.panWriteMode (dataByte d), voiceWrite_of_selected h _, ?_, ?_⟩
  · intro hmode
    rw [hmode, val_panValue_saturate, toNat_dataByte]
  · intro hmode
    rw [hmode, val_panValue_low4, toNat_dataByte]

/-! #### The control bytes (R211, R224, R225, R231) -/

theorem controlFlags_eq_setWidth (b : Byte) : controlFlags b = b.setWidth 7 := by
  apply BitVec.eq_of_toNat_eq
  rw [controlFlags, BitVec.extractLsb'_toNat, Nat.shiftRight_zero, BitVec.toNat_setWidth]

/-- Bits 7 and 5 are the two bits of the mask `0xA0`. -/
theorem forcesIrq_eq (b : Byte) : forcesIrq b = (b.getLsbD 7 && b.getLsbD 5) := by
  rw [Bool.eq_iff_iff, forcesIrq, beq_iff_eq, Bool.and_eq_true]
  constructor
  · intro h
    have hset : ∀ k, (0xA0#8).getLsbD k = true → b.getLsbD k = true := by
      intro k hk
      rw [← h, BitVec.getLsbD_and, Bool.and_eq_true] at hk
      exact hk.1
    exact ⟨hset 7 rfl, hset 5 rfl⟩
  · rintro ⟨h7, h5⟩
    apply BitVec.eq_of_getLsbD_eq
    intro k hk
    rw [BitVec.getLsbD_and]
    interval_cases k <;> simp [h7, h5]

/-- `WriteCtrl` (R211) with the pending mask given bit by bit. -/
theorem State.writeCtrl_of_getLsbD {s : State} {axis : Axis} {b : Byte} {p : Word}
    (hp : ∀ k, p.getLsbD k = if k = s.voiceIndex.val then forcesIrq b else (s.pending axis).getLsbD k) :
    s.writeCtrl axis b =
      let t := (s.setPending axis p).setCur
        (s.cur.setTrack axis { s.cur.track axis with state := controlFlags b })
      if p = s.pending axis then t else t.checkVoiceIrq := by
  obtain rfl : p = controlPending (s.pending axis) s.voiceIndex b :=
    BitVec.eq_of_getLsbD_eq fun k _ => (hp k).trans (getLsbD_controlPending _ _ _ k).symm
  rfl

theorem forcesIrq_dataByte (d : Half) : forcesIrq (dataByte d) = (d.getLsbD 15 && d.getLsbD 13) := by
  rw [forcesIrq_eq, getLsbD_dataByte d (by decide), getLsbD_dataByte d (by decide)]

theorem controlFlags_dataByte (d : Half) : controlFlags (dataByte d) = (d >>> 8).setWidth 7 := by
  rw [controlFlags_eq_setWidth, dataByte_eq_setWidth, BitVec.setWidth_setWidth_of_le _ (by decide)]

/-- Settles O21: `WriteCtrl` on each axis, the mask being the one of these bits. -/
theorem controlByteWrites : Obligations.ControlByteWrites := by
  intro s d h pw pv hpw hpv
  simp only [← forcesIrq_dataByte] at hpw hpv
  simp only [← controlFlags_dataByte]
  constructor
  · exact (voiceWrite_of_selected h _).trans
      (congrArg Host.Outcome.next (State.writeCtrl_of_getLsbD (axis := .wave) hpw))
  · exact (voiceWrite_of_selected h _).trans
      (congrArg Host.Outcome.next (State.writeCtrl_of_getLsbD (axis := .vol) hpv))

/-- The flags of a control readback (R231). -/
theorem setWidth_controlReadback (f : TrackFlags) (pending : Bool) :
    (controlReadback f pending).setWidth 7 = f := by
  have hbit : (if pending then 0x80#8 else 0).setWidth 7 = 0#7 := by cases pending <;> rfl
  rw [controlReadback, BitVec.setWidth_or, hbit, BitVec.or_zero,
    BitVec.setWidth_setWidth_of_le _ (by decide), BitVec.setWidth_eq]

/-- The pending bit of a control readback (R231). -/
theorem getLsbD_controlReadback_seven (f : TrackFlags) (pending : Bool) :
    (controlReadback f pending).getLsbD 7 = pending := by
  have hflags : f.getLsbD 7 = false := BitVec.getLsbD_of_ge f 7 (by decide)
  rw [controlReadback, BitVec.getLsbD_or, BitVec.getLsbD_setWidth, hflags]
  cases pending <;> rfl

section ControlReads

variable (s : State) (axis : Axis)

/-- The flags in the value that a control-byte read delivers (R232, R245). -/
theorem State.setWidth_readCtrl :
    (inHighByte (s.readCtrl axis) >>> 8).setWidth 7 = (s.cur.track axis).state := by
  rw [← controlFlags_dataByte, dataByte_inHighByte, controlFlags_eq_setWidth, State.readCtrl,
    setWidth_controlReadback]

/-- The pending bit in that value. -/
theorem State.getLsbD_readCtrl :
    (inHighByte (s.readCtrl axis)).getLsbD 15 = (s.pending axis).getLsbD s.voiceIndex.val := by
  rw [← getLsbD_dataByte (k := 7) _ (by decide), dataByte_inHighByte, State.readCtrl,
    getLsbD_controlReadback_seven, and_voiceBit_bne_zero]

end ControlReads

/-- The low byte of the raw volume rate is what a read delivers (R238). -/
theorem inHighByte_extractLsb' (r : Half) : inHighByte (r.extractLsb' 0 8) = r <<< 8 := by
  apply BitVec.eq_of_toNat_eq
  rw [toNat_inHighByte, BitVec.extractLsb'_toNat, Nat.shiftRight_zero, BitVec.toNat_shiftLeft,
    Nat.shiftLeft_eq]
  omega

theorem ofNat_mul_sixteen (n : Nat) : BitVec.ofNat 16 (n * 16) = BitVec.ofNat 16 n <<< 4 := by
  apply BitVec.eq_of_toNat_eq
  rw [BitVec.toNat_ofNat, BitVec.toNat_shiftLeft, BitVec.toNat_ofNat, Nat.shiftLeft_eq]
  omega

/-- Settles O23: each delivered value is an 8-bit register in the high byte, or a table index. -/
theorem volumeControlAndPanReadbacks : Obligations.VolumeControlAndPanReadbacks := by
  intro s b e h hstart hend
  rw [← inHighByte_extractLsb' s.cur.vol.rate, ← inHighByte_eq_shiftLeft b,
    ← inHighByte_eq_shiftLeft e, ← ofNat_mul_sixteen, ← volBoundReadback_of_toInt hstart,
    ← volBoundReadback_of_toInt hend]
  refine ⟨?_, ?_, ?_, ?_, inHighByte (s.readCtrl .wave), inHighByte (s.readCtrl .vol),
    inHighByte (BitVec.ofNat 8 s.cur.panPosition.val), ?_, ?_, ?_, setWidth_inHighByte _,
    setWidth_inHighByte _, ?pan, s.setWidth_readCtrl .wave, s.getLsbD_readCtrl .wave,
    s.setWidth_readCtrl .vol, s.getLsbD_readCtrl .vol⟩
  case pan =>
    have hpan := s.cur.panPosition.isLt
    rw [toNat_inHighByte, BitVec.toNat_ofNat, Nat.mod_eq_of_lt (by omega)]
  all_goals exact voiceRead_of_selected h _ _

/-! #### Readbacks are the inverses of the writes (R246) -/

/-- The write and then the read complete, and the read delivers `r`. -/
def ReadsBack (s : State) (write read : Instr) (r : Half) : Prop :=
  ∃ t, exec write s = .next t ∧ exec read t = .next { t with reply := .half r }

/-- The write sets the current voice to `x`, the read delivers what the voice holds at `kept`. -/
theorem readsBack_of_setCur (kept : Voice → Half) {s : State} (h : s.voiceSelected = true)
    {write read : Instr} {x : Voice} {r : Half} (hwrite : exec write s = voiceWrite s (s.setCur x))
    (hread : ∀ t : State, exec read t = voiceRead t 0 (kept t.cur)) (hkept : kept x = r) :
    ReadsBack s write read r := by
  refine ⟨s.setCur x, hwrite.trans (voiceWrite_of_selected h _), ?_⟩
  rw [hread, State.cur_setCur, hkept]
  exact voiceRead_of_selected (s := s.setCur x) h _ _

/-! The volume readbacks at what a write of `d` stores (R238 to R241 after R217 to R220). -/

theorem volRateReadback (d : Half) :
    inHighByte (((dataByte d).setWidth 16).extractLsb' 0 8) = d &&& 0xFF00#16 := by
  rw [extractByte_setWidth, inHighByte_dataByte]

theorem volBoundReadback_volBound (d : Half) :
    volBoundReadback (volBound (dataByte d)) = d &&& 0xFF00#16 := by
  rw [volBoundReadback_of_toInt (toInt_volBound _), inHighByte_dataByte]

theorem volCurrentReadback (d : Half) :
    BitVec.ofNat 16 (volIndex (volCurrentOf d) * 16) = d &&& 0xFFF0#16 := by
  have hd := d.isLt
  have hindex : BitVec.ofNat 16 (d.toNat / 16) = d >>> 4 := by
    apply BitVec.eq_of_toNat_eq
    rw [BitVec.toNat_ofNat, BitVec.toNat_ushiftRight, Nat.shiftRight_eq_div_pow]
    omega
  rw [volIndex_of_toInt (toInt_volCurrentOf d) (by omega), ofNat_mul_sixteen, hindex]
  apply BitVec.eq_of_getLsbD_eq
  intro k hk
  interval_cases k <;> simp

/-- Settles O24: of the voice as written, each read delivers what the register keeps. -/
theorem voiceRegistersReadBackWhatWasWritten : Obligations.VoiceRegistersReadBackWhatWasWritten := by
  intro s d h p hp
  change ReadsBack s p.1 p.2.1 p.2.2
  simp only [List.mem_cons, List.not_mem_nil, or_false] at hp
  rcases hp with rfl | rfl | rfl | rfl | rfl | rfl | rfl | rfl | rfl | rfl | rfl
  · exact readsBack_of_setCur (·.wave.rate) h rfl (fun _ => rfl) rfl
  · exact readsBack_of_setCur (mswOf ·.wave.start) h rfl (fun _ => rfl) rfl
  · exact readsBack_of_setCur (lswOf ·.wave.start) h rfl (fun _ => rfl) rfl
  · exact readsBack_of_setCur (mswOf ·.wave.endAt) h rfl (fun _ => rfl) rfl
  · exact readsBack_of_setCur (lswOf ·.wave.endAt) h rfl (fun _ => rfl) rfl
  · exact readsBack_of_setCur (fun x => inHighByte (x.vol.rate.extractLsb' 0 8)) h rfl (fun _ => rfl)
      (volRateReadback d)
  · exact readsBack_of_setCur (volBoundReadback ·.vol.start) h rfl (fun _ => rfl)
      (volBoundReadback_volBound d)
  · exact readsBack_of_setCur (volBoundReadback ·.vol.endAt) h rfl (fun _ => rfl)
      (volBoundReadback_volBound d)
  · exact readsBack_of_setCur (fun x => BitVec.ofNat 16 (volIndex x.vol.pos * 16)) h rfl (fun _ => rfl)
      (volCurrentReadback d)
  · exact readsBack_of_setCur (mswOf ·.wave.pos) h rfl (fun _ => rfl) rfl
  · exact readsBack_of_setCur (lswOf ·.wave.pos) h rfl (fun _ => rfl) rfl

end Sys2Proof.Machine

/-! ### Global registers and ports (`45_global_registers.md` R260 to R292) -/

namespace Sys2Proof.Machine

/-! #### All host commands (R260, `20_memory.md` R74, `10_state.md` R38) -/

/-- What no host command but the poke and the channel select changes. -/
def State.hostFrame (s : State) : List Frame × Params × List AgentStep × Memory × Fin 8 × Fin 16 :=
  (s.acc, s.params, s.inbox, s.ram, s.dmaChannel, s.irqNumber)

section HostFrame

variable (s : State)

@[simp] theorem State.checkIrq_hostFrame : s.checkIrq.hostFrame = s.hostFrame := by
  rw [State.checkIrq_eq]
  rfl

@[simp] theorem State.checkVoiceIrq_hostFrame : s.checkVoiceIrq.hostFrame = s.hostFrame := by
  rw [State.checkVoiceIrq_eq]
  rfl

@[simp] theorem State.setCur_hostFrame (x : Voice) : (s.setCur x).hostFrame = s.hostFrame := rfl

@[simp] theorem State.setPending_hostFrame (axis : Axis) (w : Word) :
    (s.setPending axis w).hostFrame = s.hostFrame := by
  cases axis <;> rfl

theorem State.writeCtrl_hostFrame (axis : Axis) (b : Byte) :
    (s.writeCtrl axis b).hostFrame = s.hostFrame := by
  obtain ⟨-, e⟩ | ⟨-, e⟩ := s.writeCtrl_cases axis b <;> simp [e]

theorem State.prepare_hostFrame : s.prepare.hostFrame = s.hostFrame := by
  simp only [State.hostFrame, State.prepare]

theorem State.runAction_hostFrame (run : Nat) : (s.runAction run).hostFrame = s.hostFrame := by
  obtain ⟨-, e⟩ | ⟨-, e⟩ | ⟨-, -, e⟩ | ⟨-, -, e⟩ := s.runAction_cases run <;> rw [e]
  · rfl
  · exact s.prepare_hostFrame
  · rfl

/-- All that a channel select changes once it is applied (R264). -/
theorem State.selectChannel_eq (i : BitVec 3) : s.selectChannel i =
    { s with dmaChannel := (s.selectChannel i).dmaChannel, irqNumber := (s.selectChannel i).irqNumber } := by
  unfold State.selectChannel
  split <;> rfl

end HostFrame

/-- The command completes and leaves what `hostFrame` lists. -/
def CompletesInFrame (s : State) (r : Result) : Prop := ∃ t, r = .next t ∧ t.hostFrame = s.hostFrame

section CompletesInFrame

variable {s t : State}

theorem completesInFrame_next (h : t.hostFrame = s.hostFrame) : CompletesInFrame s (.next t) :=
  ⟨t, rfl, h⟩

theorem completesInFrame_voiceWrite (h : t.hostFrame = s.hostFrame) :
    CompletesInFrame s (voiceWrite s t) := by
  rw [voiceWrite_eq]
  split
  · exact completesInFrame_next h
  · exact completesInFrame_next rfl

theorem CompletesInFrame.withReply {r : Result} (h : CompletesInFrame s r) (f : Reply → Reply) :
    CompletesInFrame s (withReply f r) := by
  obtain ⟨t, rfl, ht⟩ := h
  exact ⟨_, rfl, ht⟩

end CompletesInFrame

/-- The two host commands with a frame of their own. -/
def isPokeOrChannelSelect : Instr → Bool
  | .outbDramData _ | .outbChanSelect _ => true
  | _ => false

theorem isPokeOrChannelSelect_of_decode_encodeRegw {id : Byte} {d : Half} {i : Instr}
    (h : decode (encodeRegw id d) = .ok i) : isPokeOrChannelSelect i = false := by
  simp only [decode, encodeRegw, decodeRegw] at h
  split at h <;> cases h <;> rfl

theorem isPokeOrChannelSelect_of_decode_regr {id : Byte} {i : Instr} (h : decode [id] = .ok i) :
    isPokeOrChannelSelect i = false := by
  simp only [decode, decodeRegr] at h
  split at h <;> cases h <;> rfl

/-- A command that is no data port writes latches and voices, or goes through one of the operations above. -/
theorem exec_completesInFrame_of_not_isDataPort {i : Instr} (hi : isDataPort i = false)
    (hp : isPokeOrChannelSelect i = false) (s : State) : CompletesInFrame s (exec i s) := by
  cases i with
  | outwRegData | outbRegDataHi | inbRegDataLo | inwRegData | inbRegDataHi => cases hi
  | outbDramData | outbChanSelect => cases hp
  | outbMixCtrl | outbAdlibCmd | outbVoiceIndex | outbRegSelect | outbRegDataLo
  | inbIrqStatus | inbTimerStatus | inbAdlibCmdRb | inbVoiceIndex | inbRegSelect | inbDramData
  | activeVoices | dmaCtrl | dmaAddr | dramAddrA | dramAddrB | timer1Value | timer2Value | sampleCtrl
  | rdDmaAddr | rdTimerCtrl | rdSampleCtrl | rdWaveCtrl | rdWaveRate | rdWaveStartMsw | rdWaveStartLsw
  | rdWaveEndMsw | rdWaveEndLsw | rdVolRate | rdVolStart | rdVolEnd | rdVolCurrent | rdWavePosMsw
  | rdWavePosLsw | rdPan | rdVolCtrl => exact completesInFrame_next rfl
  | outbTimerCmd => exact completesInFrame_next (by split <;> rfl)
  | waveRate | waveStartMsw | waveStartLsw | waveEndMsw | waveEndLsw | volRate | volStart | volEnd
  | volCurrent | wavePosMsw | wavePosLsw | pan => exact completesInFrame_voiceWrite rfl
  | waveCtrl => exact completesInFrame_voiceWrite (s.writeCtrl_hostFrame .wave _)
  | volCtrl => exact completesInFrame_voiceWrite (s.writeCtrl_hostFrame .vol _)
  | timerCtrl => exact completesInFrame_next (State.checkIrq_hostFrame _)
  | runtimeCtrl d => exact completesInFrame_next (s.runAction_hostFrame (runState d))
  | rdDmaCtrl => exact completesInFrame_next (State.checkIrq_hostFrame _)
  | rdVoiceIrq => exact completesInFrame_next (State.checkVoiceIrq_hostFrame _)

/-- A commit runs a register write command, or nothing. -/
theorem regWrite_completesInFrame (s : State) : CompletesInFrame s (regWrite s) := by
  obtain ⟨i, hi, e⟩ | ⟨-, e⟩ := regWrite_cases s <;> rw [e]
  · exact exec_completesInFrame_of_not_isDataPort (isDataPort_of_decode_encodeRegw hi)
      (isPokeOrChannelSelect_of_decode_encodeRegw hi) s
  · exact completesInFrame_next rfl

/-- A data-port read runs a register read command, or delivers the data latch. -/
theorem regRead_completesInFrame (s : State) : CompletesInFrame s (regRead s) := by
  obtain ⟨i, hi, e⟩ | ⟨-, e⟩ := regRead_cases s <;> rw [e]
  · exact exec_completesInFrame_of_not_isDataPort (isDataPort_of_decode_regr hi)
      (isPokeOrChannelSelect_of_decode_regr hi) s
  · exact completesInFrame_next rfl

theorem exec_completesInFrame {i : Instr} (hp : isPokeOrChannelSelect i = false) (s : State) :
    CompletesInFrame s (exec i s) := by
  cases hi : isDataPort i with
  | false => exact exec_completesInFrame_of_not_isDataPort hi hp s
  | true =>
    cases i with
    | outwRegData | outbRegDataHi => exact regWrite_completesInFrame { s with registerData := _ }
    | inwRegData => exact regRead_completesInFrame s
    | inbRegDataLo | inbRegDataHi => exact (regRead_completesInFrame s).withReply _
    | _ => cases hi

/-- Settles O6: the poke writes RAM, the channel select the two settings, and every other command stays in
the common frame. -/
theorem everyHostCommandCompletes : Obligations.EveryHostCommandCompletes := by
  intro i s
  cases hp : isPokeOrChannelSelect i with
  | false =>
    obtain ⟨t, ht, hframe⟩ := exec_completesInFrame hp s
    simp only [State.hostFrame, Prod.mk.injEq] at hframe
    obtain ⟨hacc, hparams, hinbox, hram, hdma, hirq⟩ := hframe
    exact ⟨t, ht, hacc, hparams, hinbox, fun _ => hram, fun _ => ⟨hdma, hirq⟩⟩
  | true =>
    cases i with
    | outbDramData v =>
      exact ⟨_, rfl, rfl, rfl, rfl, fun h => absurd rfl (h v), fun _ => ⟨rfl, rfl⟩⟩
    | outbChanSelect v =>
      refine ⟨_, rfl, ?_⟩
      rw [State.selectChannel_eq]
      split <;> exact ⟨rfl, rfl, rfl, fun _ => rfl, fun h => absurd rfl (h v)⟩
    | _ => cases hp

/-! #### Bits and bytes of the operands -/

/-- A mask of one bit tests that bit. -/
theorem and_twoPow_bne_zero (b : Byte) {k : Nat} (hk : k < 8) :
    (b &&& BitVec.twoPow 8 k != 0) = b.getLsbD k := by
  have hbit : BitVec.twoPow 8 k ≠ 0#8 := fun h => by
    simpa [BitVec.getLsbD_twoPow, hk] using congrArg (BitVec.getLsbD · k) h
  rw [BitVec.and_twoPow]
  cases b.getLsbD k
  · rfl
  · simpa using hbit

theorem selectsIrq_eq (c : Byte) : selectsIrq c = c.getLsbD 6 := and_twoPow_bne_zero c (k := 6) (by decide)

theorem lineEnabled_eq (c : Byte) : lineEnabled c = c.getLsbD 3 := and_twoPow_bne_zero c (k := 3) (by decide)

theorem dmaEnabled_eq (c : Byte) : dmaEnabled c = c.getLsbD 0 := and_twoPow_bne_zero c (k := 0) (by decide)

theorem byteOf_eq_setWidth (v : Half) : byteOf v = v.setWidth 8 := lowByte_eq_setWidth v

theorem voiceNumber_eq_ofNat (v : Half) : voiceNumber v = Fin.ofNat 32 v.toNat := by
  apply Fin.ext
  change (v.extractLsb' 0 5).toNat = v.toNat % 32
  rw [BitVec.extractLsb'_toNat, Nat.shiftRight_zero]

/-- A halfword by its high byte and the halfword that its low byte is taken from. -/
theorem joinBytes_lowByte (hi : Byte) (h : Half) :
    joinBytes hi (lowByte h) = inHighByte hi ||| (h &&& 0x00FF#16) := by
  have hmask : 0x00FF#16 = 0#8 ++ BitVec.allOnes 8 := by decide
  have hlow : h &&& 0x00FF#16 = 0#8 ++ lowByte h := by
    conv_lhs =>
      rw [hmask, ← joinBytes_high_low h, joinBytes, BitVec.and_append, BitVec.and_zero, BitVec.and_allOnes]
  rw [hlow, inHighByte, joinBytes, joinBytes, BitVec.or_append, BitVec.or_zero]
  exact congrArg (hi ++ ·) BitVec.zero_or.symm

/-! #### The latches and the status ports (R261 to R263, R265 to R269, R272) -/

/-- Settles O8: each is the delivery of one register. -/
theorem statusPortReads : Obligations.StatusPortReads := fun _ => ⟨rfl, rfl, rfl, rfl⟩

/-- Settles O9: each latches the operand that the model's field functions take from `v`. -/
theorem latchingPortWrites : Obligations.LatchingPortWrites := by
  intro s v
  rw [← byteOf_eq_setWidth, ← voiceNumber_eq_ofNat, ← inHighByte_dataByte, ← joinBytes_lowByte]
  exact ⟨rfl, rfl, rfl, rfl, rfl⟩

/-! #### The channel select (R264, `30_encoding.md` R118) -/

theorem toNat_channelIndex (v : Half) : (channelIndex v).toNat = v.toNat % 8 := by
  rw [channelIndex, BitVec.extractLsb'_toNat, Nat.shiftRight_zero]

/-- `IRQ_TABLE` as a list, with the present line for "none". -/
theorem irqTable_getD (i : BitVec 3) (n : Fin 16) :
    (irqTable i).getD n = [n, 2, 5, 3, 7, 11, 12, 15][i.toNat]! := by
  have hi := i.isLt
  unfold irqTable
  interval_cases i.toNat <;> rfl

/-- `DMA_TABLE` as a list, with the present channel for "none". -/
theorem dmaTable_getD (i : BitVec 3) (n : Fin 8) :
    (dmaTable i).getD n = [n, 1, 3, 5, 6, 7, n, n][i.toNat]! := by
  have hi := i.isLt
  unfold dmaTable
  interval_cases i.toNat <;> rfl

theorem exec_outbChanSelect_of_armed {s : State} (h : s.shouldApply = true) (v : Half) :
    exec (.outbChanSelect v) s =
      .next { s.selectChannel (channelIndex v) with shouldApply := false } :=
  congrArg Host.Outcome.next (if_pos h)

/-- Settles O11: unarmed, and armed with each of the two settings of `mix_ctrl` bit 6. -/
theorem channelSelectIsArmedOnce : Obligations.ChannelSelectIsArmedOnce := by
  intro s v
  rw [← toNat_channelIndex, ← irqTable_getD, ← dmaTable_getD, ← selectsIrq_eq]
  refine ⟨fun h => ?unarmed, fun h hirq => ?irq, fun h hdma => ?dma⟩
  case unarmed => exact congrArg Host.Outcome.next (if_neg (by simp [h]))
  case irq => rw [exec_outbChanSelect_of_armed h, State.selectChannel, if_pos hirq]
  case dma => rw [exec_outbChanSelect_of_armed h, State.selectChannel, if_neg (by simp [hdma])]

/-! #### Commits and data-port reads (R273 to R275, R277 to R279) -/

/-- Settles O12: `RegWrite` dispatches as the decoder does, and the high data port commits the word it
assembles. -/
theorem commitRunsTheRegisterWrite : Obligations.CommitRunsTheRegisterWrite := by
  intro s v
  refine ⟨fun i hi => ?known, fun hunknown => ?unknown, ?high⟩
  case known =>
    obtain ⟨j, hj, e⟩ | ⟨hnone, -⟩ := regWrite_cases { s with registerData := v }
    · obtain rfl : j = i := Except.ok.inj (hj.symm.trans hi)
      exact e
    · exact absurd hi (hnone i)
  case unknown =>
    obtain ⟨j, hj, -⟩ | ⟨-, e⟩ := regWrite_cases { s with registerData := v }
    · exact absurd hj (hunknown j)
    · exact e
  case high =>
    rw [← inHighByte_extractLsb', ← joinBytes_lowByte]
    rfl

/-- The three data ports deliver one register read, whole or in part. -/
theorem dataPortReads_of_regRead {s t : State} {r : Half} (h : regRead s = .next (t.answerHalf r)) :
    exec .inwRegData s = .next { t with reply := .half r } ∧
      exec .inbRegDataLo s = .next { t with reply := .byte (r.setWidth 8) } ∧
      exec .inbRegDataHi s = .next { t with reply := .byte ((r >>> 8).setWidth 8) } := by
  rw [← lowByte_eq_setWidth, ← highByte_eq_setWidth]
  exact ⟨h, congrArg (withReply Reply.low) h, congrArg (withReply Reply.high) h⟩

/-- Settles O14: the one register read is that of the decoded id, or delivers the data latch. -/
theorem dataPortReadsPerformOneRegisterRead : Obligations.DataPortReadsPerformOneRegisterRead := by
  intro s
  obtain ⟨i, hi, e⟩ | ⟨hnone, e⟩ := regRead_cases s
  · obtain ⟨t, r, h⟩ := regRead_half s
    obtain ⟨whole, low, high⟩ := dataPortReads_of_regRead h
    refine ⟨t, r, whole, low, high, fun j hj => ?_, fun hunknown => absurd hi (hunknown i)⟩
    obtain rfl : i = j := Except.ok.inj (hi.symm.trans hj)
    exact e.symm.trans h
  · obtain ⟨whole, low, high⟩ := dataPortReads_of_regRead e
    exact ⟨s, s.registerData, whole, low, high, fun j hj => absurd hj (hnone j), fun _ => ⟨rfl, rfl⟩⟩

/-! #### Peek and poke (R270, R271) -/

/-- Settles O15: a poke is one write to sample RAM. -/
theorem peekAndPoke : Obligations.PeekAndPoke := by
  refine ⟨fun _ => rfl, fun s v => ?_⟩
  rw [← byteOf_eq_setWidth]
  exact ⟨_, rfl, s.ramByte_writeRam_same s.dramAddr (byteOf v),
    fun _ ha => s.ramByte_writeRam_other (byteOf v) ha⟩

/-! #### Active voices (R280) -/

theorem requestedVoices_eq (d : Half) : requestedVoices d = max 14 (1 + d.toNat / 256 % 32) := by
  have hcount : (d.extractLsb' 8 5).toNat = d.toNat / 256 % 32 := by
    rw [BitVec.extractLsb'_toNat, Nat.shiftRight_eq_div_pow]
  rw [requestedVoices, hcount, clamp, Config.minActive, Config.maxActive]
  split_ifs <;> omega

/-- Settles O25: the count by its value, the mask by its bits. -/
theorem activeVoicesWrite : Obligations.ActiveVoicesWrite := by
  intro s d
  obtain ⟨hmin, hmax⟩ := requestedVoices_bounds d
  exact ⟨requestedVoices d, maskOf (requestedVoices d), requestedVoices_eq d, hmin, hmax,
    fun _ _ => getLsbD_maskOf hmax, rfl⟩

/-! #### DMA, sampling and timer control (R281 to R283, R287, R288) -/

/-- Settles O26: each latch, and bit 0 of a control byte as the request for an attempt. -/
theorem dmaRegisterWrites : Obligations.DmaRegisterWrites := by
  intro s d
  rw [← dataByte_eq_setWidth, ← getLsbD_dataByte (k := 0) d (by decide), Bool.or_comm]
  refine ⟨?ctrl, rfl, rfl⟩
  rw [← dmaEnabled_eq]
  rfl

/-- The event of `CheckIrq` after an acknowledge of the terminal count (R283): bit 7 of `irq_status` asks for
nothing any more. -/
theorem irqEvents_of_terminalCount_acknowledged (s : State) :
    ({ s with irqStatus := s.irqStatus &&& 0x7F#8 } : State).irqEvents =
      if (s.irqStatus &&& (if s.irqEnabled then 0x7F#8 else 0x1F#8)) ≠ 0 ∧ s.mixCtrl.getLsbD 3 = true
      then [.irqAssert s.irqNumber] else [] := by
  have hgate : 0x7F#8 &&& irqGate s.irqEnabled = if s.irqEnabled then 0x7F#8 else 0x1F#8 := by
    cases s.irqEnabled <;> rfl
  simp only [State.irqEvents, BitVec.and_assoc, hgate, lineEnabled_eq, Bool.and_eq_true, bne_iff_ne]

/-- The byte of a DMA control read (R283). -/
theorem getLsbD_dmaCtrlReadback (c irq : Byte) {k : Nat} (hk : k < 8) :
    ((c &&& 0xBF#8) ||| ((irq &&& 0x80#8) >>> 1)).getLsbD k =
      if k = 6 then irq.getLsbD 7 else c.getLsbD k := by
  interval_cases k <;> simp

theorem getLsbD_inHighByte (b : Byte) {k : Nat} (hk : k < 8) :
    (inHighByte b).getLsbD (8 + k) = b.getLsbD k := by
  rw [← getLsbD_dataByte _ hk, dataByte_inHighByte]

/-- All that a DMA control read does (R283). -/
theorem exec_rdDmaCtrl (s : State) : exec .rdDmaCtrl s = .next { s with
    irqStatus := s.irqStatus &&& 0x7F#8
    out := s.out ++ ({ s with irqStatus := s.irqStatus &&& 0x7F#8 } : State).irqEvents
    reply := .half (inHighByte ((s.dmaCtrl &&& 0xBF#8) ||| ((s.irqStatus &&& 0x80#8) >>> 1))) } := by
  change Host.Outcome.next (State.answerHalf (State.checkIrq _) _) = _
  rw [State.checkIrq_eq]
  rfl

/-- Settles O27: the DMA control read acknowledges before it re-checks the line; the latches are delivered. -/
theorem globalRegisterReads : Obligations.GlobalRegisterReads := by
  intro s
  rw [← inHighByte_eq_shiftLeft, ← inHighByte_eq_shiftLeft]
  refine ⟨⟨_, _, exec_rdDmaCtrl s, setWidth_inHighByte _, ?terminalCount, fun k hk h6 => ?others,
    irqEvents_of_terminalCount_acknowledged s⟩, rfl, rfl, rfl⟩
  case terminalCount =>
    rw [getLsbD_inHighByte (k := 6) _ (by decide), getLsbD_dmaCtrlReadback _ _ (by decide), if_pos rfl]
  case others => rw [getLsbD_inHighByte _ hk, getLsbD_dmaCtrlReadback _ _ hk, if_neg h6]

/-! #### The DRAM address (R284, R285) -/

/-- An address by its high 4 and its low 16 bits. -/
theorem append_extractLsb'_setWidth (a : RamAddr) : a.extractLsb' 16 4 ++ a.setWidth 16 = a := by
  rw [BitVec.setWidth_eq_extractLsb' (by decide)]
  exact (BitVec.extractLsb'_append_extractLsb'_eq_extractLsb' rfl).trans BitVec.extractLsb'_eq_self

theorem setDramLow_eq_append (a : RamAddr) (d : Half) : setDramLow a d = a.extractLsb' 16 4 ++ d := by
  have hmask : 0xF0000#20 = BitVec.allOnes 4 ++ 0#16 := by decide
  have hd : d.setWidth 20 = 0#4 ++ d := BitVec.setWidth_eq_append (by decide)
  conv_lhs => rw [setDramLow, ← append_extractLsb'_setWidth a]
  rw [hmask, hd, BitVec.and_append, BitVec.or_append, BitVec.and_allOnes, BitVec.and_zero,
    BitVec.or_zero, BitVec.zero_or]

theorem setDramHigh_eq_append (a : RamAddr) (d : Half) :
    setDramHigh a d = d.extractLsb' 8 4 ++ a.setWidth 16 := by
  have hmask : 0x0FFFF#20 = 0#4 ++ BitVec.allOnes 16 := by decide
  have hd : (d.extractLsb' 8 4).setWidth 20 <<< 16 = d.extractLsb' 8 4 ++ 0#16 :=
    setWidth_shiftLeft_eq_append _ 16
  conv_lhs => rw [setDramHigh, ← append_extractLsb'_setWidth a]
  rw [hmask, hd, BitVec.and_append, BitVec.or_append, BitVec.and_allOnes, BitVec.and_zero,
    BitVec.or_zero, BitVec.zero_or]

/-- Settles O28: each write keeps one part of the address, under both orders. -/
theorem dramAddressWrites : Obligations.DramAddressWrites := by
  intro s d
  simp only [BitVec.setWidth_ushiftRight_eq_extractLsb]
  refine ⟨setDramLow s.dramAddr d, setDramHigh s.dramAddr d, ?_, ?_, ?_, ?_, fun h => ?_, fun h => ?_⟩
  · rw [setDramLow_eq_append, BitVec.setWidth_append_eq_right]
  · rw [setDramLow_eq_append, BitVec.extractLsb'_append_eq_left]
  · rw [setDramHigh_eq_append, BitVec.setWidth_append_eq_right]
  · rw [setDramHigh_eq_append, BitVec.extractLsb'_append_eq_left]
  all_goals
    change execDramAddrA d s = _ ∧ execDramAddrB d s = _
    rw [execDramAddrA, execDramAddrB, h]
    exact ⟨rfl, rfl⟩

/-! #### Run states (R289, `70_reset_and_hazards.md` R402, R404) -/

theorem exec_runtimeCtrl (d : Half) (s : State) :
    exec (.runtimeCtrl d) s = .next { s.runAction (runState d) with irqEnabled := irqEnableBit d } := rfl

theorem runState_eq (d : Half) : runState d = d.toNat / 256 % 8 := by
  rw [runState, BitVec.extractLsb'_toNat, Nat.shiftRight_eq_div_pow]

/-- The IRQ enable is the upper bit of the run state. -/
theorem irqEnableBit_eq (d : Half) : irqEnableBit d = decide (4 ≤ d.toNat / 256 % 8) := by
  rw [irqEnableBit, BitVec.getLsbD, Nat.testBit_eq_decide_div_mod_eq, decide_eq_decide]
  omega

/-- A run state above 1 enables output if there are active voices. -/
theorem State.runAction_of_two_le (s : State) {run : Nat} (h : 2 ≤ run) :
    s.runAction run = { s with outputEnabled := s.outputEnabled || decide (0 < s.activeVoices) } := by
  obtain ⟨h0, -⟩ | ⟨h1, -⟩ | ⟨-, hpos, e⟩ | ⟨-, hzero, e⟩ := s.runAction_cases run
  · omega
  · omega
  · rw [e, State.begin, decide_eq_true hpos, Bool.or_true]
  · rw [e, decide_eq_false (Nat.not_lt.mpr hzero.le), Bool.or_false]

/-- Settles O30: run state 0 is `Stop`, with the IRQ enable it has; the run states above 1 are `Begin` or
nothing. -/
theorem runtimeStopAndBegin : Obligations.RuntimeStopAndBegin := by
  intro s d
  rw [← irqEnableBit_eq, ← runState_eq]
  refine ⟨fun h => ?stop, fun h => ?begin⟩
  case stop =>
    have hirq : irqEnableBit d = false := by
      rw [irqEnableBit_eq, ← runState_eq, h]
      rfl
    rw [exec_runtimeCtrl, h, hirq]
    rfl
  case begin => rw [exec_runtimeCtrl, s.runAction_of_two_le h]

/-! #### The voice IRQ read (R292, `30_encoding.md` R115) -/

theorem getLsbD_and_not_voiceBit (w : Word) (v : Fin 32) (k : Nat) :
    (w &&& ~~~ voiceBit v).getLsbD k = (w.getLsbD k && k != v.val) := by
  by_cases hk : k < 32
  · rw [BitVec.getLsbD_and, BitVec.getLsbD_not, getLsbD_voiceBit]
    by_cases e : k = v.val <;> simp [hk, e]
  · rw [BitVec.getLsbD_of_ge _ _ (by omega), BitVec.getLsbD_of_ge _ _ (by omega), Bool.false_and]

theorem getLsbD_bitAt (b : Bool) (n : Nat) {k : Nat} (hk : k < 8) :
    (bitAt b n).getLsbD k = (b && decide (n = k)) := by
  cases b with
  | false => simp [bitAt]
  | true =>
    have hn : n = k → n < 8 := fun e => e ▸ hk
    rw [bitAt, if_pos rfl, ← BitVec.twoPow_eq, BitVec.getLsbD_twoPow, Bool.true_and, ← Bool.decide_and]
    exact decide_eq_decide.mpr (and_iff_right_of_imp hn)

/-- A voice number has five bits. -/
theorem testBit_voice (v : Fin 32) {k : Nat} (hk : 5 ≤ k) : v.val.testBit k = false :=
  Nat.testBit_lt_two_pow (v.isLt.trans_le (Nat.pow_le_pow_right (by decide : 0 < 2) hk))

/-- The byte of a voice IRQ read bit by bit (R292: decision D30): the voice, a set bit, a clear bit for each
pending axis. -/
theorem getLsbD_voiceIrqByte (v : Fin 32) (vol wave : Bool) {k : Nat} (hk : k < 8) :
    (voiceIrqByte v vol wave).getLsbD k =
      if k < 5 then v.val.testBit k else if k = 5 then true else if k = 6 then !vol else !wave := by
  have hset : 0x20#8 = bitAt true 5 := rfl
  simp only [voiceIrqByte, hset, BitVec.getLsbD_or, BitVec.getLsbD_ofNat, getLsbD_bitAt _ _ hk,
    decide_eq_true hk]
  interval_cases k <;> simp [testBit_voice]

/-- The voice that the byte reports. -/
theorem toNat_voiceIrqByte_mod (v : Fin 32) (vol wave : Bool) :
    (voiceIrqByte v vol wave).toNat % 32 = v.val := by
  apply Nat.eq_of_testBit_eq
  intro k
  refine (Nat.testBit_mod_two_pow _ 5 k).trans ?_
  by_cases hk : k < 5
  · rw [decide_eq_true hk, Bool.true_and]
    exact (getLsbD_voiceIrqByte v vol wave (by omega)).trans (if_pos hk)
  · rw [decide_eq_false hk, Bool.false_and, testBit_voice v (Nat.not_lt.mp hk)]

/-- All that a voice IRQ read does (R292). -/
theorem exec_rdVoiceIrq (s : State) : exec .rdVoiceIrq s = .next
    { ({ s with
          waveState := s.waveState &&& ~~~ voiceBit s.status
          volState := s.volState &&& ~~~ voiceBit s.status } : State).checkVoiceIrq with
      reply := .half (inHighByte (voiceIrqByte s.status (s.volState.getLsbD s.status.val)
        (s.waveState.getLsbD s.status.val))) } := by
  rw [← and_voiceBit_bne_zero, ← and_voiceBit_bne_zero]
  rfl

/-- Settles O32: the delivered byte bit by bit, and the two masks without the reported voice. -/
theorem voiceIrqRead : Obligations.VoiceIrqRead := by
  intro s
  have hbit {k : Nat} (hk : k < 8) := (getLsbD_inHighByte _ hk).trans
    (getLsbD_voiceIrqByte s.status (s.volState.getLsbD s.status.val) (s.waveState.getLsbD s.status.val) hk)
  refine ⟨_, _, _, getLsbD_and_not_voiceBit _ _, getLsbD_and_not_voiceBit _ _, setWidth_inHighByte _,
    ?_, hbit (k := 5) (by decide), hbit (k := 6) (by decide), hbit (k := 7) (by decide),
    exec_rdVoiceIrq s⟩
  rw [← setWidth_dataByte, dataByte_inHighByte, BitVec.toNat_setWidth_of_le (by decide)]
  exact toNat_voiceIrqByte_mod _ _ _

end Sys2Proof.Machine

/-! ### The DMA bridge (`46_dma.md` R311 to R318) -/

namespace Sys2Proof.Machine

/-! #### The bits of `dma_ctrl` (`30_encoding.md` R112: decision D32) -/

theorem dmaDownload_eq (c : Byte) : dmaDownload c = c.getLsbD 1 := and_twoPow_bne_zero c (k := 1) (by decide)

theorem dmaWide_eq (c : Byte) (channel : Fin 8) :
    dmaWide c channel = (c.getLsbD 2 && decide (4 ≤ channel.val)) :=
  congrArg (· && decide (4 ≤ channel.val)) (and_twoPow_bne_zero c (k := 2) (by decide))

theorem dmaTcIrq_eq (c : Byte) : dmaTcIrq c = c.getLsbD 5 := and_twoPow_bne_zero c (k := 5) (by decide)

theorem dmaPcm16_eq (c : Byte) : dmaPcm16 c = c.getLsbD 6 := and_twoPow_bne_zero c (k := 6) (by decide)

theorem dmaFlip_eq (c : Byte) : dmaFlip c = c.getLsbD 7 := and_twoPow_bne_zero c (k := 7) (by decide)

/-! #### The gate (R312) -/

section Gate

variable {s : State} {channels : Vector HostChannel 8}

theorem dmaStep_of_closed (hs : s.dmaScheduled = true)
    (h : channels[s.dmaChannel].masked = true ∨ s.dmaCtrl.getLsbD 0 = false) :
    dmaStep channels s = .next { s with dmaScheduled := false } := by
  rw [← dmaEnabled_eq] at h
  obtain ⟨hoff, -⟩ | ⟨-, -, e⟩ | ⟨-, hopen, hon, -⟩ := dmaStep_cases channels s
  · simp [hs] at hoff
  · exact e
  · rw [hopen, hon] at h
    simp at h

theorem dmaStep_of_open (hs : s.dmaScheduled = true) (hopen : channels[s.dmaChannel].masked = false)
    (hon : s.dmaCtrl.getLsbD 0 = true) :
    dmaStep channels s = dmaTransfer channels[s.dmaChannel].bytes s := by
  rw [← dmaEnabled_eq] at hon
  obtain ⟨hoff, -⟩ | ⟨-, hclosed, -⟩ | ⟨-, -, -, e⟩ := dmaStep_cases channels s
  · simp [hs] at hoff
  · rw [hopen, hon] at hclosed
    simp at hclosed
  · exact e

end Gate

/-! #### Only a `DMA` step ends a scheduled attempt (R311: decisions D1, D37) -/

theorem State.writeCtrl_dmaScheduled (s : State) (axis : Axis) (b : Byte) :
    (s.writeCtrl axis b).dmaScheduled = s.dmaScheduled := by
  obtain ⟨-, e⟩ | ⟨-, e⟩ := s.writeCtrl_cases axis b <;> simp [e, State.setCur]

/-- `Stop` clears the control byte and not the attempt (decision D37). -/
theorem State.runAction_dmaScheduled (s : State) (run : Nat) :
    (s.runAction run).dmaScheduled = s.dmaScheduled := by
  obtain ⟨-, e⟩ | ⟨-, e⟩ | ⟨-, -, e⟩ | ⟨-, -, e⟩ := s.runAction_cases run <;> rw [e]
  · rfl
  · simp only [State.prepare]
  · rfl

theorem State.timerIrq_dmaScheduled (s : State) (raise : Bool) (bit : Byte) :
    (s.timerIrq raise bit).dmaScheduled = s.dmaScheduled := by
  rw [State.timerIrq_eq]

/-- The answer leaves an attempt scheduled, if it is a next state. -/
def LeavesScheduled : Result → Prop
  | .next t => t.dmaScheduled = true
  | .fault _ => True
  | .refused _ => True

theorem LeavesScheduled.withReply {r : Result} (hr : LeavesScheduled r) (f : Reply → Reply) :
    LeavesScheduled (withReply f r) := by
  cases r with
  | next t => exact hr
  | fault e => trivial
  | refused e => trivial

section LeavesScheduled

variable {s : State} (h : s.dmaScheduled = true)
include h

theorem leavesScheduled_voiceWrite {t : State} (ht : t.dmaScheduled = true) :
    LeavesScheduled (voiceWrite s t) := by
  rw [voiceWrite_eq]
  change (if s.voiceSelected then t else s).dmaScheduled = true
  split
  · exact ht
  · exact h

/-- A command that is no data port sets `dma_scheduled` or does not write it. -/
theorem leavesScheduled_exec_of_not_isDataPort {i : Instr} (hi : isDataPort i = false) :
    LeavesScheduled (exec i s) := by
  cases i with
  | outwRegData | outbRegDataHi | inbRegDataLo | inwRegData | inbRegDataHi => cases hi
  | outbMixCtrl | outbAdlibCmd | outbVoiceIndex | outbRegSelect | outbRegDataLo | outbDramData
  | inbIrqStatus | inbTimerStatus | inbAdlibCmdRb | inbVoiceIndex | inbRegSelect | inbDramData
  | activeVoices | dmaAddr | dramAddrA | dramAddrB | timer1Value | timer2Value
  | rdDmaAddr | rdTimerCtrl | rdSampleCtrl | rdWaveCtrl | rdWaveRate | rdWaveStartMsw | rdWaveStartLsw
  | rdWaveEndMsw | rdWaveEndLsw | rdVolRate | rdVolStart | rdVolEnd | rdVolCurrent | rdWavePosMsw
  | rdWavePosLsw | rdPan | rdVolCtrl => exact h
  | dmaCtrl | sampleCtrl => exact Bool.or_eq_true_iff.mpr (.inr h)
  | outbTimerCmd v =>
    change (if (byteOf v).getLsbD 7 then _ else _ : State).dmaScheduled = true
    split <;> exact h
  | outbChanSelect v =>
    change (if s.shouldApply then _ else s : State).dmaScheduled = true
    rw [State.selectChannel_eq]
    split <;> exact h
  | waveRate | waveStartMsw | waveStartLsw | waveEndMsw | waveEndLsw | volRate | volStart | volEnd
  | volCurrent | wavePosMsw | wavePosLsw | pan => exact leavesScheduled_voiceWrite h h
  | waveCtrl => exact leavesScheduled_voiceWrite h ((s.writeCtrl_dmaScheduled .wave _).trans h)
  | volCtrl => exact leavesScheduled_voiceWrite h ((s.writeCtrl_dmaScheduled .vol _).trans h)
  | timerCtrl => exact (State.checkIrq_dmaScheduled _).trans h
  | runtimeCtrl d => exact (s.runAction_dmaScheduled (runState d)).trans h
  | rdDmaCtrl =>
    rw [exec_rdDmaCtrl]
    exact h
  | rdVoiceIrq =>
    rw [exec_rdVoiceIrq]
    exact (State.checkVoiceIrq_dmaScheduled _).trans h

/-- A commit runs a register write command, or nothing. -/
theorem leavesScheduled_regWrite : LeavesScheduled (regWrite s) := by
  obtain ⟨i, hi, e⟩ | ⟨-, e⟩ := regWrite_cases s <;> rw [e]
  · exact leavesScheduled_exec_of_not_isDataPort h (isDataPort_of_decode_encodeRegw hi)
  · exact h

/-- A data-port read runs a register read command, or delivers the data latch. -/
theorem leavesScheduled_regRead : LeavesScheduled (regRead s) := by
  obtain ⟨i, hi, e⟩ | ⟨-, e⟩ := regRead_cases s <;> rw [e]
  · exact leavesScheduled_exec_of_not_isDataPort h (isDataPort_of_decode_regr hi)
  · exact h

theorem leavesScheduled_exec (i : Instr) : LeavesScheduled (exec i s) := by
  cases hi : isDataPort i with
  | false => exact leavesScheduled_exec_of_not_isDataPort h hi
  | true =>
    cases i with
    | outwRegData v => exact leavesScheduled_regWrite (s := { s with registerData := v }) h
    | outbRegDataHi v => exact leavesScheduled_regWrite (s := { s with registerData := _ }) h
    | inwRegData => exact leavesScheduled_regRead h
    | inbRegDataLo | inbRegDataHi => exact (leavesScheduled_regRead h).withReply _
    | _ => cases hi

theorem leavesScheduled_runDecoded (d : Except Reject Instr) : LeavesScheduled (runDecoded d s) := by
  cases d with
  | ok i => exact leavesScheduled_exec h i
  | error r =>
    cases r with
    | unlistedWrite | unlistedRead8 | unlistedRead16 | unknownRegisterWrite | unknownRegisterRead => exact h
    | wideAccess | malformed => trivial

theorem leavesScheduled_seqStep (n : Nat) : LeavesScheduled (seqStep n s) := by
  cases e : seqStep n s with
  | next t => exact (congrArg State.dmaScheduled (seqStep_writes e)).trans h
  | fault => trivial
  | refused => trivial

theorem leavesScheduled_timer1Step : LeavesScheduled (timer1Step s) := by
  change (if s.timer1.counting then _ else s : State).dmaScheduled = true
  split
  · exact (State.timerIrq_dmaScheduled ..).trans h
  · exact h

theorem leavesScheduled_timer2Step : LeavesScheduled (timer2Step s) := by
  change (if s.timer2.counting then _ else s : State).dmaScheduled = true
  split
  · exact (State.timerIrq_dmaScheduled ..).trans h
  · exact h

theorem leavesScheduled_agentStep {a : AgentStep} (ha : a.agent ≠ .dma) :
    LeavesScheduled (agentStep a s) := by
  cases a with
  | command bytes => exact leavesScheduled_runDecoded (s := { s with reply := .none }) h _
  | bus t => exact leavesScheduled_runDecoded (s := { s with reply := .none }) h _
  | seq n => exact leavesScheduled_seqStep h n
  | dma channels => exact absurd rfl ha
  | timer1 => exact leavesScheduled_timer1Step h
  | timer2 => exact leavesScheduled_timer2Step h

end LeavesScheduled

/-! #### A scheduled attempt is taken (R311, `00_scope.md` R9, `70_reset_and_hazards.md` R430) -/

section Runs

variable {state : Nat → State} {move : Nat → AgentStep} (hrun : IsRun state move)
include hrun

theorem IsRun.dmaScheduled_succ {n : Nat} (h : (state n).dmaScheduled = true)
    (hmove : (move n).agent ≠ .dma) : (state (n + 1)).dmaScheduled = true := by
  have hstep := (step_of_inbox_cons rfl).symm.trans (hrun.next n)
  have hleaves := leavesScheduled_agentStep (s := { state n with inbox := [] }) h hmove
  rwa [hstep] at hleaves

/-- Without a `DMA` step the attempt would stay scheduled forever, and fairness would give one. -/
theorem IsRun.exists_dma_move (hfair : WeaklyFair state move) {n : Nat}
    (h : (state n).dmaScheduled = true) : ∃ m, n ≤ m ∧ (move m).agent = .dma := by
  by_contra! hnone
  have hstays (m : Nat) (hm : n ≤ m) : (state m).dmaScheduled = true := by
    induction m, hm using Nat.le_induction with
    | base => exact h
    | succ m hm ih => exact hrun.dmaScheduled_succ ih (hnone m hm)
  obtain ⟨m, hm, hdma⟩ := hfair .dma n (by decide) hstays
  exact hnone m hm hdma

end Runs

theorem AgentStep.exists_of_agent_eq_dma {a : AgentStep} (h : a.agent = .dma) :
    ∃ channels, a = .dma channels := by
  cases a with
  | dma channels => exact ⟨channels, rfl⟩
  | _ => cases h

/-- Settles O52: the two sides of the gate; in a run a `DMA` step finds its attempt scheduled, and fairness
gives that step. -/
theorem dmaGate : Obligations.DmaGate := by
  refine ⟨fun s channels hs => ⟨dmaStep_of_closed hs, dmaStep_of_open hs⟩, ?taken⟩
  intro state move hrun hfair n hn
  obtain ⟨m, hm, hdma⟩ := hrun.exists_dma_move hfair hn
  have hscheduled := hrun.enabled m
  rw [hdma] at hscheduled
  exact ⟨m, hm, hscheduled, AgentStep.exists_of_agent_eq_dma hdma⟩

/-! #### The range of a transfer (R314, `20_memory.md` R71: decision D33) -/

theorem toNat_and_0x1FFF (a : Half) : (a &&& 0x1FFF#16).toNat = a.toNat % 0x2000 :=
  (BitVec.toNat_and ..).trans (Nat.and_two_pow_sub_one_eq_mod a.toNat 13)

theorem toNat_and_0xC000 (a : Half) : (a &&& 0xC000#16).toNat = a.toNat / 0x4000 * 0x4000 := by
  have hmask : 0xC000#16 = BitVec.allOnes 16 <<< 14 := by decide
  have ha := a.isLt
  rw [hmask, ← BitVec.shiftLeft_ushiftRight, BitVec.toNat_shiftLeft, BitVec.toNat_ushiftRight,
    Nat.shiftLeft_eq, Nat.shiftRight_eq_div_pow]
  omega

/-- The 16-bit translation moves the bits of the address and then is the 8-bit one. -/
theorem toNat_dmaAddr16 (a : Half) : (dmaAddr16 a).toNat =
    16 * (2 * (a.toNat % 0x2000) ||| a.toNat / 0x4000 * 0x4000) := by
  refine (toNat_dmaAddr8 _).trans ?_
  rw [BitVec.toNat_or, BitVec.toNat_shiftLeft, toNat_and_0x1FFF, toNat_and_0xC000, Nat.shiftLeft_eq]
  congr 2
  omega

theorem toNat_dmaBase (c : Byte) (channel : Fin 8) (a : Half) : (dmaBase c channel a).toNat =
    if c.getLsbD 2 = true ∧ 4 ≤ channel.val then
      16 * (2 * (a.toNat % 0x2000) ||| a.toNat / 0x4000 * 0x4000)
    else 16 * a.toNat := by
  simp only [dmaBase, dmaWide_eq, apply_ite BitVec.toNat, toNat_dmaAddr16, toNat_dmaAddr8,
    Bool.and_eq_true, decide_eq_true_eq]

/-- A transfer faults exactly past the end of RAM. -/
theorem dmaTransfer_eq_fault_iff (bytes : List Byte) (s : State) :
    dmaTransfer bytes s = .fault .dmaRange ↔
      0x100000 < (dmaBase s.dmaCtrl s.dmaChannel s.dmaAddr).toNat + bytes.length := by
  obtain ⟨hlt, e⟩ | ⟨hle, -, e⟩ | ⟨hle, -, e⟩ := dmaTransfer_cases bytes s
  · exact iff_of_true e hlt
  · exact iff_of_false (by simp [e]) hle.not_gt
  · exact iff_of_false (by simp [e]) hle.not_gt

/-- Settles O53: the formulas give the first byte, which is an address of RAM. -/
theorem dmaRangeFault : Obligations.DmaRangeFault := by
  intro s bytes base hbase
  obtain rfl : (dmaBase s.dmaCtrl s.dmaChannel s.dmaAddr).toNat = base := by
    rw [toNat_dmaBase]
    split_ifs at hbase ⊢ <;> exact hbase.symm
  exact ⟨dmaTransfer_eq_fault_iff bytes s, BitVec.isLt _⟩

/-! #### The end of a transfer (R316) -/

theorem State.dmaFinish_eq_ite (s : State) : s.dmaFinish =
    if s.dmaCtrl.getLsbD 5 then
      { ({ s with irqStatus := s.irqStatus ||| 0x80#8 } : State).checkIrq with dmaScheduled := false }
    else { s with dmaScheduled := true } := by
  rw [← dmaTcIrq_eq]
  rfl

/-- The end of a transfer keeps RAM and the registers that address it. -/
theorem State.dmaFinish_keeps (s : State) : s.dmaFinish.ram = s.ram ∧
    s.dmaFinish.dmaChannel = s.dmaChannel ∧ s.dmaFinish.dmaAddr = s.dmaAddr := by
  rw [State.dmaFinish_eq]
  exact ⟨rfl, rfl, rfl⟩

/-- The end of a transfer adds an interrupt request or no event. -/
theorem State.exists_dmaFinish_out (s : State) : ∃ tail, s.dmaFinish.out = s.out ++ tail := by
  rw [State.dmaFinish_eq_ite]
  split
  · exact ⟨_, State.checkIrq_out _⟩
  · exact ⟨[], (List.append_nil _).symm⟩

/-! #### Uploads (R313, R315: decisions D32, D36) -/

/-- The bytes that an upload leaves, by the bits of `dma_ctrl`. -/
theorem getElem?_uploaded (c : Byte) (bytes : List Byte) (k : Nat) : (uploaded c bytes)[k]? =
    bytes[k]?.map fun b =>
      if c.getLsbD 7 && (!c.getLsbD 6 || k % 2 == 1) then b ^^^ 0x80#8 else b := by
  rw [uploaded, dmaFlip_eq, dmaPcm16_eq]
  cases c.getLsbD 7 with
  | false => simp
  | true => simp [getElem?_converted, flipSign]

theorem uploaded_of_not_flip {c : Byte} (h : c.getLsbD 7 = false) (bytes : List Byte) :
    uploaded c bytes = bytes := by
  rw [uploaded, dmaFlip_eq, h, if_neg Bool.false_ne_true]

section Transfer

variable {s : State} {bytes : List Byte}

theorem dmaTransfer_of_upload (hdir : s.dmaCtrl.getLsbD 1 = false)
    (hr : (dmaBase s.dmaCtrl s.dmaChannel s.dmaAddr).toNat + bytes.length ≤ 0x100000) :
    dmaTransfer bytes s = .next (s.writeBytes (dmaBase s.dmaCtrl s.dmaChannel s.dmaAddr)
      (uploaded s.dmaCtrl bytes)).dmaFinish := by
  rw [← dmaDownload_eq] at hdir
  obtain ⟨hlt, -⟩ | ⟨-, hdown, -⟩ | ⟨-, -, e⟩ := dmaTransfer_cases bytes s
  · omega
  · simp [hdir] at hdown
  · exact e

theorem dmaTransfer_of_download (hdir : s.dmaCtrl.getLsbD 1 = true)
    (hr : (dmaBase s.dmaCtrl s.dmaChannel s.dmaAddr).toNat + bytes.length ≤ 0x100000) :
    dmaTransfer bytes s = .next (s.emit (.hostWrite s.dmaChannel
      (s.readBytes (dmaBase s.dmaCtrl s.dmaChannel s.dmaAddr) bytes.length))).dmaFinish := by
  rw [← dmaDownload_eq] at hdir
  obtain ⟨hlt, -⟩ | ⟨-, -, e⟩ | ⟨-, hup, -⟩ := dmaTransfer_cases bytes s
  · omega
  · exact e
  · simp [hdir] at hup

/-- A transfer that completes was in range. -/
theorem dmaBase_add_length_le_of_next {t : State} (h : dmaTransfer bytes s = .next t) :
    (dmaBase s.dmaCtrl s.dmaChannel s.dmaAddr).toNat + bytes.length ≤ 0x100000 := by
  rw [← not_lt, ← dmaTransfer_eq_fault_iff, h]
  simp

/-- An upload without conversion leaves its bytes in RAM, and the registers that address them. -/
theorem dmaTransfer_writes_of_upload {t : State} (hdir : s.dmaCtrl.getLsbD 1 = false)
    (hflip : s.dmaCtrl.getLsbD 7 = false) (h : dmaTransfer bytes s = .next t) :
    t.ram = (s.writeBytes (dmaBase s.dmaCtrl s.dmaChannel s.dmaAddr) bytes).ram ∧
      t.dmaChannel = s.dmaChannel ∧ t.dmaAddr = s.dmaAddr := by
  rw [dmaTransfer_of_upload hdir (dmaBase_add_length_le_of_next h), uploaded_of_not_flip hflip] at h
  cases h
  rw [State.writeBytes_eq]
  exact State.dmaFinish_keeps _

end Transfer

/-- Settles O54: an upload writes the converted bytes, whose write says what each address holds. -/
theorem dmaUploadStoresTheBytes : Obligations.DmaUploadStoresTheBytes := by
  intro s bytes hdir hr
  generalize hbase : dmaBase s.dmaCtrl s.dmaChannel s.dmaAddr = base at hr ⊢
  have hwrite := State.writeBytes_eq (uploaded s.dmaCtrl bytes) s base
  refine ⟨(s.writeBytes base (uploaded s.dmaCtrl bytes)).ram, ?outcome, fun a => ?memory⟩
  case outcome =>
    rw [dmaTransfer_of_upload hdir (hbase ▸ hr), hbase, hwrite, State.dmaFinish_eq_ite]
  case memory =>
    rw [← hwrite, State.ramByte_writeBytes _ _ _ _ (by rwa [length_uploaded]), getElem?_uploaded]
    cases bytes[a.toNat - base.toNat]? with
    | none => exact ite_self _
    | some b =>
      by_cases hle : base.toNat ≤ a.toNat
      · simp [hle, hle.not_gt]
      · simp [hle, Nat.not_le.mp hle]

/-! #### Downloads and round trips (R313, R318: decisions D32, D35) -/

@[simp] theorem State.length_readBytes (s : State) : ∀ (n : Nat) (a : RamAddr),
    (s.readBytes a n).length = n
  | 0, _ => rfl
  | n + 1, a => congrArg (· + 1) (State.length_readBytes s n (a + 1))

/-- The bytes read are those of the addresses from `a` on. -/
theorem State.getElem?_readBytes (s : State) : ∀ (n : Nat) (a : RamAddr) {k : Nat}, k < n →
    (s.readBytes a n)[k]? = some (s.ramByte (a + BitVec.ofNat 20 k))
  | n + 1, a, 0, _ => congrArg (fun b => some (s.ramByte b)) (BitVec.add_zero a).symm
  | n + 1, a, k + 1, hk => by
    have hnext : a + 1 + BitVec.ofNat 20 k = a + BitVec.ofNat 20 (k + 1) := by
      rw [Nat.add_comm k 1, BitVec.ofNat_add, BitVec.add_assoc]
      rfl
    rw [State.readBytes, List.getElem?_cons_succ, State.getElem?_readBytes s n _ (by omega), hnext]

/-- What is read depends on RAM alone. -/
theorem State.readBytes_congr {s t : State} (h : t.ram = s.ram) : ∀ (n : Nat) (a : RamAddr),
    t.readBytes a n = s.readBytes a n
  | 0, _ => rfl
  | n + 1, a => by
    simp only [State.readBytes, State.ramByte, h, State.readBytes_congr h n]

theorem dmaBase_congr {c c' : Byte} (h : c'.getLsbD 2 = c.getLsbD 2) (channel : Fin 8) (a : Half) :
    dmaBase c' channel a = dmaBase c channel a := by
  rw [dmaBase, dmaBase, dmaWide_eq, dmaWide_eq, h]

/-- A download that completes leaves RAM and adds first the bytes of RAM to the events. -/
theorem exists_dmaTransfer_of_download {s : State} {bytes : List Byte} (hdir : s.dmaCtrl.getLsbD 1 = true)
    (hr : (dmaBase s.dmaCtrl s.dmaChannel s.dmaAddr).toNat + bytes.length ≤ 0x100000) :
    ∃ u, dmaTransfer bytes s = .next u ∧ u.ram = s.ram ∧
      ∃ tail, u.out = s.out ++ .hostWrite s.dmaChannel
        (s.readBytes (dmaBase s.dmaCtrl s.dmaChannel s.dmaAddr) bytes.length) :: tail := by
  refine ⟨_, dmaTransfer_of_download hdir hr, (State.dmaFinish_keeps _).1, ?_⟩
  obtain ⟨tail, htail⟩ := State.exists_dmaFinish_out _
  exact ⟨tail, htail.trans (List.append_cons _ _ _).symm⟩

/-- Settles O55: a download emits what it reads; after an upload without conversion that is what was
written, for neither the end of a transfer nor the change of direction moves the base. -/
theorem dmaRoundTripIsIdentity : Obligations.DmaRoundTripIsIdentity := by
  constructor
  case left =>
    intro s bytes hdir base hr
    refine ⟨s.readBytes base bytes.length, State.length_readBytes _ _ _,
      fun k hk => State.getElem?_readBytes _ _ _ hk, ?_⟩
    rw [dmaTransfer_of_download hdir hr, State.dmaFinish_eq_ite]
    rfl
  case right =>
    intro s t bytes other c hup hflip ht hlen hdown hwide
    have hr := dmaBase_add_length_le_of_next ht
    obtain ⟨hram, hchannel, haddr⟩ := dmaTransfer_writes_of_upload hup hflip ht
    generalize hbase : dmaBase s.dmaCtrl s.dmaChannel s.dmaAddr = base at hram hr
    have hbase' : dmaBase c t.dmaChannel t.dmaAddr = base := by
      rw [hchannel, haddr, dmaBase_congr hwide, hbase]
    have hsent : ({ t with dmaCtrl := c } : State).readBytes base other.length = bytes := by
      rw [hlen, State.readBytes_congr (t := { t with dmaCtrl := c }) hram,
        State.readBytes_writeBytes _ _ _ hr]
    obtain ⟨u, hu, huram, tail, hout⟩ := exists_dmaTransfer_of_download
      (s := { t with dmaCtrl := c }) (bytes := other) hdown (by rwa [hbase', hlen])
    refine ⟨u, hu, huram, tail, ?_⟩
    rwa [hbase', hsent, hchannel] at hout

end Sys2Proof.Machine

/-! ### Timers (`60_exceptions.md` R370 to R373, `30_encoding.md` R116: decision D45) -/

namespace Sys2Proof.Machine

/-! #### The timer ports (R372) -/

theorem exec_outbTimerCmd (s : State) (v : Half) : exec (.outbTimerCmd v) s = .next
    (if v.getLsbD 7 then { s with timer1.expired := false, timer2.expired := false }
    else { s with
      timer1.masked := v.getLsbD 6, timer1.counting := v.getLsbD 0
      timer2.masked := v.getLsbD 5, timer2.counting := v.getLsbD 1 }) := by
  have hbit {k : Nat} (hk : k < 8) := getLsbD_byteOf v hk
  rw [← hbit (k := 7) (by decide), ← hbit (k := 6) (by decide), ← hbit (k := 5) (by decide),
    ← hbit (k := 1) (by decide), ← hbit (k := 0) (by decide)]
  rfl

/-- The byte of a timer status read bit by bit (`30_encoding.md` R116). -/
theorem getLsbD_timerStatus (expired1 expired2 : Bool) (irq : Byte) {k : Nat} (hk : k < 8) :
    (timerStatus expired1 expired2 irq).getLsbD k =
      if k = 7 then expired1 || expired2 else if k = 6 then expired1 else if k = 5 then expired2
      else if k = 2 then irq.getLsbD 2 else if k = 1 then irq.getLsbD 3 else false := by
  simp only [timerStatus, BitVec.getLsbD_or, getLsbD_bitAt _ _ hk]
  interval_cases k <;> simp

/-- Settles O10: the two branches of the command, and the status byte bit by bit. -/
theorem timerPorts : Obligations.TimerPorts := by
  intro s v
  have hbit {k : Nat} (hk : k < 8) := getLsbD_timerStatus s.timer1.expired s.timer2.expired s.irqStatus hk
  refine ⟨fun h => ?clear, fun h => ?start, ?status⟩
  case clear => rw [exec_outbTimerCmd, if_pos h]
  case start => rw [exec_outbTimerCmd, h, if_neg Bool.false_ne_true]
  case status =>
    exact ⟨_, rfl, hbit (k := 7) (by decide), hbit (k := 6) (by decide), hbit (k := 5) (by decide),
      hbit (k := 2) (by decide), hbit (k := 1) (by decide), hbit (k := 4) (by decide),
      hbit (k := 3) (by decide), hbit (k := 0) (by decide)⟩

/-! #### The timer registers (R373) -/

/-- Bit `n` of a byte is kept or cleared, every other bit is kept. -/
theorem getLsbD_and_keep (b : Byte) (n : Nat) (keep : Bool) (k : Nat) :
    (b &&& (if keep then 0xFF#8 else ~~~ BitVec.twoPow 8 n)).getLsbD k =
      (b.getLsbD k && !(k == n && !keep)) := by
  by_cases hk : k < 8
  · cases keep with
    | true =>
      rw [if_pos rfl, show 0xFF#8 = BitVec.allOnes 8 from rfl, BitVec.and_allOnes]
      simp
    | false =>
      rw [if_neg Bool.false_ne_true, BitVec.getLsbD_and, BitVec.getLsbD_not, BitVec.getLsbD_twoPow]
      by_cases h : k = n
      · simp [h, h ▸ hk]
      · simp [hk, h, Ne.symm h]
  · simp [BitVec.getLsbD_of_ge _ _ (Nat.not_lt.mp hk)]

/-- Settles O29: a timer's bit of `irq_status` is kept exactly where its flag is set. -/
theorem timerRegisterWrites : Obligations.TimerRegisterWrites := by
  intro s d
  rw [← dataByte_eq_setWidth, ← getLsbD_dataByte (k := 2) d (by decide),
    ← getLsbD_dataByte (k := 3) d (by decide)]
  refine ⟨⟨_, fun k => ?acknowledged, rfl⟩, rfl, rfl⟩
  have h1 : irqTimer1 = BitVec.twoPow 8 2 := rfl
  have h2 : irqTimer2 = BitVec.twoPow 8 3 := rfl
  rw [h1, h2, getLsbD_and_keep, getLsbD_and_keep]

/-! #### Expiries (R370, R371) -/

theorem Timer.expire_eq (t : Timer) : t.expire = { t with expired := t.expired || !t.masked } := by
  obtain ⟨_, expired, masked, _, _⟩ := t
  cases masked <;> simp [Timer.expire]

/-- Settles O56: the step of each timer, counting and not counting. -/
theorem timerExpiry : Obligations.TimerExpiry := by
  intro s
  refine ⟨fun h => ?_, fun h => ?_, fun h => ?_, fun h => ?_⟩
  · rw [timer1Step, h, if_neg Bool.false_ne_true]
  · rw [timer2Step, h, if_neg Bool.false_ne_true]
  · rw [timer1Step, if_pos h, Timer.expire_eq]
    rfl
  · rw [timer2Step, if_pos h, Timer.expire_eq]
    rfl

end Sys2Proof.Machine

/-! ### Interrupt requests (`60_exceptions.md` R355 to R360) -/

namespace Sys2Proof.Machine

/-! #### The aggregation and the line (R355, R360: decisions D28, D29) -/

theorem State.irqEvents_eq (s : State) : s.irqEvents =
    if (s.irqStatus &&& (if s.irqEnabled then 0xFF#8 else 0x9F#8)) ≠ 0 ∧ s.mixCtrl.getLsbD 3 = true
    then [.irqAssert s.irqNumber] else [] := by
  simp only [State.irqEvents, irqGate, lineEnabled_eq, Bool.and_eq_true, bne_iff_ne]

/-- The aggregation bit by bit. -/
theorem getLsbD_aggregated (irq : Byte) (vm wm : Word) (k : Nat) :
    (aggregated irq vm wm).getLsbD k =
      if k = 6 then vm != 0 else if k = 5 then wm != 0 else irq.getLsbD k := by
  by_cases hk : k < 8
  · change ((irq &&& 0x9F#8) ||| bitAt (vm != 0) 6 ||| bitAt (wm != 0) 5).getLsbD k = _
    simp only [BitVec.getLsbD_or, BitVec.getLsbD_and, getLsbD_bitAt _ _ hk]
    interval_cases k <;> simp
  · rw [if_neg (by omega), if_neg (by omega), BitVec.getLsbD_of_ge _ _ (Nat.not_lt.mp hk),
      BitVec.getLsbD_of_ge _ _ (Nat.not_lt.mp hk)]

/-- Settles O33: the event of `CheckIrq`, and the aggregation bit by bit. -/
theorem aggregationAndTheInterruptLine : Obligations.AggregationAndTheInterruptLine := by
  intro s
  rw [← State.irqEvents_eq]
  refine ⟨s.checkIrq_eq, s.aggregatedStatus, s.aggregatedCursor, getLsbD_aggregated _ _ _, ?_⟩
  rw [State.checkIrq_out]
  exact s.checkVoiceIrq_eq

/-! #### The cursor (R356) -/

theorem State.getLsbD_totalPending (s : State) (k : Nat) : s.totalPending.getLsbD k =
    ((s.volState.getLsbD k || s.waveState.getLsbD k) && s.activeVoiceMask.getLsbD k) := by
  simp only [State.totalPending, BitVec.getLsbD_or, BitVec.getLsbD_and, Bool.and_or_distrib_right]

/-- In a sound state at most 32 voices are active (`10_state.md` R29). -/
theorem State.Inv.activeVoices_le {s : State} (h : s.Inv) : s.activeVoices ≤ 32 := by
  have := h.count
  omega

/-- A pending voice of a sound state is an active one. -/
theorem State.Inv.lt_activeVoices {s : State} (h : s.Inv) {k : Nat}
    (hk : s.totalPending.getLsbD k = true) : k < s.activeVoices := by
  rw [State.getLsbD_totalPending, h.mask, getLsbD_maskOf h.activeVoices_le, Bool.and_eq_true,
    decide_eq_true_iff] at hk
  exact hk.2

/-- Settles O34: the search meets a pending voice below the count, and the first it meets ends it. -/
theorem cursorFindsTheNextPendingVoice : Obligations.CursorFindsTheNextPendingVoice := by
  intro s hs
  rw [State.checkVoiceIrq_status, State.aggregatedCursor]
  refine ⟨fun h => if_pos h, fun h => ?_⟩
  obtain ⟨v, -, hv⟩ := exists_getLsbD h
  obtain ⟨k, hcursor, hpending, hfirst⟩ :=
    seekCursor_spec hs.activeVoices_le s.status (hs.lt_activeVoices hv) hv
  rw [if_neg h, hcursor]
  exact ⟨k, rfl, hpending, hs.lt_activeVoices hpending, hfirst⟩

/-! #### Voice IRQ reads drain the pending voices (R357, `70_reset_and_hazards.md` R417) -/

/-- No bit is pending but what was pending before. -/
def PendsNoMore (t s : State) : Prop :=
  ∀ axis k, (t.pending axis).getLsbD k = true → (s.pending axis).getLsbD k = true

/-- The pending voices of a state, as a set. -/
def State.pendingVoices (s : State) : Finset Nat :=
  (Finset.range s.activeVoices).filter (s.totalPending.getLsbD · = true)

theorem State.Inv.mem_pendingVoices {s : State} (h : s.Inv) {k : Nat} :
    k ∈ s.pendingVoices ↔ s.totalPending.getLsbD k = true := by
  rw [State.pendingVoices, Finset.mem_filter, Finset.mem_range]
  exact and_iff_right_of_imp h.lt_activeVoices

theorem State.Inv.pendingVoices_eq_empty_iff {s : State} (h : s.Inv) :
    s.pendingVoices = ∅ ↔ s.totalPending = 0 := by
  constructor
  · intro he
    by_contra hne
    obtain ⟨k, -, hk⟩ := exists_getLsbD hne
    exact Finset.eq_empty_iff_forall_notMem.mp he k (h.mem_pendingVoices.mpr hk)
  · intro hz
    refine Finset.eq_empty_iff_forall_notMem.mpr fun k hk => ?_
    have := h.mem_pendingVoices.mp hk
    simp [hz] at this

/-- The cursor stands at a pending voice, if there is one. -/
def State.CursorAtPending (s : State) : Prop :=
  s.totalPending ≠ 0 → s.totalPending.getLsbD s.status.val = true

/-- The state with the voice at the cursor off the pending ones, which a voice IRQ read aggregates. -/
def State.reported (s : State) : State :=
  { s with
    waveState := s.waveState &&& ~~~ voiceBit s.status
    volState := s.volState &&& ~~~ voiceBit s.status }

theorem State.getLsbD_pending_reported (s : State) (axis : Axis) (k : Nat) :
    (s.reported.pending axis).getLsbD k = ((s.pending axis).getLsbD k && k != s.status.val) := by
  cases axis <;> exact getLsbD_and_not_voiceBit _ _ _

theorem State.getLsbD_totalPending_reported (s : State) (k : Nat) :
    s.reported.totalPending.getLsbD k = (s.totalPending.getLsbD k && k != s.status.val) := by
  have hwave : s.reported.waveState.getLsbD k = _ := s.getLsbD_pending_reported .wave k
  have hvol : s.reported.volState.getLsbD k = _ := s.getLsbD_pending_reported .vol k
  rw [State.getLsbD_totalPending, State.getLsbD_totalPending, hwave, hvol, ← Bool.and_or_distrib_right]
  exact Bool.and_right_comm _ _ _

/-- One voice IRQ read of a sound state takes the voice at the cursor off the pending ones and leaves the
cursor at a pending voice. -/
theorem State.Inv.exists_rdVoiceIrq {s : State} (hs : s.Inv) : ∃ t, exec .rdVoiceIrq s = .next t ∧ t.Inv ∧
    t.pendingVoices = s.pendingVoices.erase s.status.val ∧ t.CursorAtPending ∧ PendsNoMore t s := by
  have hexec := exec_rdVoiceIrq s
  have ht := nextInv_exec hs _ _ hexec
  refine ⟨_, hexec, ht, ?erased, ?cursor, ?noMore⟩
  case erased =>
    ext k
    have hk := s.getLsbD_totalPending_reported k
    rw [← State.checkVoiceIrq_totalPending] at hk
    rw [Finset.mem_erase, ht.mem_pendingVoices, hs.mem_pendingVoices, and_comm, ← bne_iff_ne,
      ← Bool.and_eq_true]
    exact Bool.eq_iff_iff.mp hk
  case cursor =>
    have hu : s.reported.Inv := hs.of_invFields_eq rfl
    have htotal := s.reported.checkVoiceIrq_totalPending
    intro h
    obtain ⟨-, -, hpending, -⟩ := (cursorFindsTheNextPendingVoice _ hu).2 fun h0 => h (htotal.trans h0)
    exact (congrArg (BitVec.getLsbD · _) htotal).trans hpending
  case noMore =>
    intro axis k h
    have hk : (s.reported.pending axis).getLsbD k = true := by
      cases axis with
      | wave => exact (congrArg (BitVec.getLsbD · k) s.reported.checkVoiceIrq_waveState).symm.trans h
      | vol => exact (congrArg (BitVec.getLsbD · k) s.reported.checkVoiceIrq_volState).symm.trans h
    rw [State.getLsbD_pending_reported, Bool.and_eq_true] at hk
    exact hk.1

theorem execTimes_succ {i : Instr} {s t : State} (h : exec i s = .next t) (n : Nat) :
    execTimes i (n + 1) s = execTimes i n t := by
  rw [execTimes, h]

/-- As many reads as there are pending voices drain a state whose cursor stands at one. -/
theorem State.Inv.exists_drained {n : Nat} {s : State} (hs : s.Inv) (hcursor : s.CursorAtPending)
    (hn : s.pendingVoices.card ≤ n) :
    ∃ t, execTimes .rdVoiceIrq n s = .next t ∧ t.totalPending = 0 ∧ PendsNoMore t s := by
  induction n generalizing s with
  | zero =>
    have hempty := Finset.card_eq_zero.mp (Nat.le_zero.mp hn)
    exact ⟨s, rfl, hs.pendingVoices_eq_empty_iff.mp hempty, fun _ _ h => h⟩
  | succ n ih =>
    obtain ⟨u, hexec, hu, herase, hucursor, hmore⟩ := hs.exists_rdVoiceIrq
    have hcard : u.pendingVoices.card ≤ n := by
      rw [herase]
      by_cases h : s.totalPending = 0
      · rw [hs.pendingVoices_eq_empty_iff.mpr h]
        exact Nat.zero_le n
      · rw [Finset.card_erase_of_mem (hs.mem_pendingVoices.mpr (hcursor h))]
        omega
    obtain ⟨t, htimes, hzero, htmore⟩ := ih hu hucursor hcard
    exact ⟨t, (execTimes_succ hexec n).trans htimes, hzero,
      fun axis k h => hmore axis k (htmore axis k h)⟩

/-- Settles O35: the first read brings the cursor to a pending voice, and each further one takes a pending
voice off. -/
theorem voiceIrqReadsDrainThePendingVoices : Obligations.VoiceIrqReadsDrainThePendingVoices := by
  intro s hs
  obtain ⟨u, hexec, hu, herase, hcursor, hmore⟩ := hs.exists_rdVoiceIrq
  have hcard : u.pendingVoices.card ≤ s.activeVoices := by
    rw [herase]
    calc (s.pendingVoices.erase s.status.val).card
        ≤ s.pendingVoices.card := Finset.card_erase_le
      _ ≤ (Finset.range s.activeVoices).card := Finset.card_filter_le _ _
      _ = s.activeVoices := Finset.card_range _
  obtain ⟨t, htimes, hzero, htmore⟩ := hu.exists_drained hcursor hcard
  exact ⟨t, (execTimes_succ hexec _).trans htimes, hzero,
    fun k h => hmore .wave k (htmore .wave k h), fun k h => hmore .vol k (htmore .vol k h)⟩

end Sys2Proof.Machine

/-! ### Run state 1 (`70_reset_and_hazards.md` R403: decision D27) -/

namespace Sys2Proof.Machine

/-- Settles O31: run state 1 is `Prepare`, and its IRQ enable is 0. -/
theorem runtimePrepare : Obligations.RuntimePrepare := by
  intro s d h
  have hirq : irqEnableBit d = false := by
    rw [irqEnableBit_eq, h]
    rfl
  have hrun : s.runAction 1 = s.prepare := rfl
  refine ⟨s.prepare.voices, fun v => Config.drawWavePos s.draws v, Config.drawAdlib s.draws, ?_,
    s.prepare_voice⟩
  rw [exec_runtimeCtrl, runState_eq, h, hirq, hrun]
  unfold State.prepare
  -- The new voices are costly to evaluate, and both sides hold the same ones.
  generalize Vector.ofFn _ = voices
  rfl

end Sys2Proof.Machine

/-! ### The output stage (`47_output_limiter.md` R342 to R346) -/

namespace Sys2Proof.Machine

/-! #### One channel of a frame -/

/-- One channel of a pushed frame: on the limited path if a peak of the batch is over full scale, otherwise on
the direct path. -/
def outputChannel (n : Numerics) (loud : Bool) (peak x : Exact) : Half :=
  if loud then limited n peak x else direct n x

section Channel

variable {loud : Bool} {peak x : Exact} (hloud : loud = false → peak.toReal ≤ 32767)
  (hx : |x.toReal| ≤ peak.toReal)
include hloud hx

/-- Under exact numerics a channel is the truncated, scaled number, which is within full scale. -/
theorem toInt_outputChannel : (outputChannel .exact loud peak x).toInt =
      truncate (x.toReal * if loud then min 1 (32767 / peak.toReal) else 1) ∧
    |x.toReal * if loud then min 1 (32767 / peak.toReal) else 1| ≤ 32767 := by
  cases loud with
  | true => exact (toInt_limited hx).symm
  | false =>
    have hfull : |x.toReal| ≤ 32767 := hx.trans (hloud rfl)
    rw [if_neg Bool.false_ne_true, mul_one]
    exact ⟨toInt_direct hfull, hfull⟩

theorem abs_toInt_outputChannel_le (n : Numerics) : |(outputChannel n loud peak x).toInt| ≤ 32767 := by
  cases n with
  | exact =>
    obtain ⟨hval, hfull⟩ := toInt_outputChannel hloud hx
    rw [hval]
    exact abs_truncate_le hfull
  | implementation => cases loud <;> exact abs_toInt_narrowRounded_le _

end Channel

/-! #### The peaks of a batch -/

/-- The peak of the channel `ch` after the attack of the batch. -/
theorem toReal_attack_channel (ch : Frame → Exact) (acc : List Frame) (peak : Exact) :
    (attack peak (acc.map ch)).toReal = (acc.map fun f => |(ch f).toReal|).foldl max peak.toReal := by
  rw [toReal_attack, List.map_map]
  rfl

theorem abs_channel_le_attack (ch : Frame → Exact) {acc : List Frame} {f : Frame} (hf : f ∈ acc)
    (peak : Exact) : |(ch f).toReal| ≤ (attack peak (acc.map ch)).toReal :=
  (le_attack (acc.map ch) peak).2 _ (List.mem_map_of_mem hf)

/-- A peak that is not over full scale has no release. -/
theorem released_of_not_over {p : Params} {peak : Exact} (h : overFullScale peak = false) :
    released p peak = peak := by
  rw [released, h, if_neg Bool.false_ne_true]

/-! #### The stage -/

section Stage

variable (s : State)

/-- The left peak after the attack (R342, part 1). -/
def State.leftAttack : Exact := attack s.peakLeft (s.acc.map Frame.left)

/-- The right peak after the attack. -/
def State.rightAttack : Exact := attack s.peakRight (s.acc.map Frame.right)

/-- Whether the batch takes the limited path. -/
def State.overdriven : Bool := overFullScale s.leftAttack || overFullScale s.rightAttack

/-- The pairs that the stage pushes. -/
def State.pushedFrames : List (Half × Half) := s.acc.map fun f =>
  (outputChannel s.params.numerics s.overdriven s.leftAttack f.left,
    outputChannel s.params.numerics s.overdriven s.rightAttack f.right)

theorem State.overdriven_eq_false_iff :
    s.overdriven = false ↔ s.leftAttack.toReal ≤ 32767 ∧ s.rightAttack.toReal ≤ 32767 := by
  rw [State.overdriven, Bool.or_eq_false_iff, ← Bool.not_eq_true, ← Bool.not_eq_true, overFullScale_iff,
    overFullScale_iff, not_lt, not_lt]

/-- The factor of a channel, which is 1 on the direct path. -/
theorem State.factor_eq (a : ℝ) : (if s.overdriven then a else 1) =
    if s.leftAttack.toReal ≤ 32767 ∧ s.rightAttack.toReal ≤ 32767 then 1 else a := by
  simp only [← State.overdriven_eq_false_iff]
  cases s.overdriven <;> rfl

/-- All that the output stage does, on both paths (R342). -/
theorem State.output_eq_pushed : s.output = { s with
    acc := [], peakLeft := released s.params s.leftAttack, peakRight := released s.params s.rightAttack
    out := s.out ++ [.audioPush s.pushedFrames] } := by
  change (if s.overdriven then _ else _ : State) = _
  rw [State.pushedFrames]
  cases h : s.overdriven with
  | true => rfl
  | false =>
    obtain ⟨hl, hr⟩ := Bool.or_eq_false_iff.mp h
    rw [released_of_not_over hl, released_of_not_over hr]
    rfl

end Stage

/-- Settles O51: on either path a channel is at most full scale; under exact numerics the attack, the factor
and the release are those of the real numbers. -/
theorem outputNeverExceedsFullScale : Obligations.OutputNeverExceedsFullScale := by
  refine ⟨fun _ => Params.release_pos, fun s => ?_⟩
  have hleft (h : s.overdriven = false) : s.leftAttack.toReal ≤ 32767 := (s.overdriven_eq_false_iff.mp h).1
  have hright (h : s.overdriven = false) : s.rightAttack.toReal ≤ 32767 := (s.overdriven_eq_false_iff.mp h).2
  rw [State.output_eq_pushed]
  refine ⟨s.pushedFrames, rfl, List.length_map _, fun f hf => ?bounded, fun hn => ?exactValues⟩
  case bounded =>
    obtain ⟨g, hg, rfl⟩ := List.mem_map.mp hf
    exact ⟨abs_toInt_outputChannel_le hleft (abs_channel_le_attack Frame.left hg _) _,
      abs_toInt_outputChannel_le hright (abs_channel_le_attack Frame.right hg _) _⟩
  case exactValues =>
    have hpl := toReal_attack_channel Frame.left s.acc s.peakLeft
    have hpr := toReal_attack_channel Frame.right s.acc s.peakRight
    rw [← hpl, ← hpr]
    refine ⟨?_, toReal_released hn _, toReal_released hn _⟩
    rw [State.pushedFrames, hn, List.map_map]
    refine List.map_congr_left fun g hg => ?_
    obtain ⟨hl, -⟩ := toInt_outputChannel hleft (abs_channel_le_attack Frame.left hg _)
    obtain ⟨hr, -⟩ := toInt_outputChannel hright (abs_channel_le_attack Frame.right hg _)
    rw [State.factor_eq] at hl hr
    exact Prod.ext hl hr

end Sys2Proof.Machine

/-! ### The stops of a step (`60_exceptions.md` R350, R351, `45_global_registers.md` R276: decision D49) -/

namespace Sys2Proof.Machine

/-! #### Host commands -/

theorem exec_completes (i : Instr) (s : State) : ∃ t, exec i s = .next t := by
  obtain ⟨t, ht, -⟩ := everyHostCommandCompletes i s
  exact ⟨t, ht⟩

/-- A refusal and the reason for which the decoder has turned the entry down. -/
def RefusedFor (e : Refusal) (r : Reject) : Prop :=
  (e = .malformedCommand ∧ r = .malformed) ∨ (e = .wideAccess ∧ r = .wideAccess)

/-- What is no row of the table has an inert effect, or is refused for its own reason. -/
theorem runRejected_stops (r : Reject) (s : State) :
    (∀ e, runRejected r s ≠ .fault e) ∧ ∀ e, runRejected r s = .refused e → RefusedFor e r := by
  cases r with
  | unlistedWrite | unlistedRead8 | unlistedRead16 | unknownRegisterWrite | unknownRegisterRead =>
    exact ⟨fun _ => nofun, fun _ => nofun⟩
  | wideAccess => exact ⟨fun _ => nofun, fun _ h => .inr ⟨(Host.Outcome.refused.inj h).symm, rfl⟩⟩
  | malformed => exact ⟨fun _ => nofun, fun _ h => .inl ⟨(Host.Outcome.refused.inj h).symm, rfl⟩⟩

/-- A host step never faults, and refuses only what the decoder has turned down. -/
theorem runDecoded_stops (d : Except Reject Instr) (s : State) :
    (∀ e, runDecoded d s ≠ .fault e) ∧
      ∀ e, runDecoded d s = .refused e → ∃ r, RefusedFor e r ∧ d = .error r := by
  cases d with
  | ok i =>
    obtain ⟨t, ht⟩ := exec_completes i s
    have hrun : runDecoded (.ok i) s = .next t := ht
    rw [hrun]
    exact ⟨fun _ => nofun, fun _ => nofun⟩
  | error r =>
    obtain ⟨hfault, hrefused⟩ := runRejected_stops r s
    exact ⟨hfault, fun e h => ⟨r, hrefused e h, rfl⟩⟩

/-! #### The other agents -/

/-- A transfer does not refuse, and faults only by the range of RAM. -/
theorem dmaTransfer_stops (bytes : List Byte) (s : State) :
    (∀ e, dmaTransfer bytes s = .fault e → e = .dmaRange) ∧ ∀ e, dmaTransfer bytes s ≠ .refused e := by
  obtain ⟨-, h⟩ | ⟨-, -, h⟩ | ⟨-, -, h⟩ := dmaTransfer_cases bytes s <;> rw [h]
  · exact ⟨fun _ h => (Host.Outcome.fault.inj h).symm, fun _ => nofun⟩
  · exact ⟨fun _ => nofun, fun _ => nofun⟩
  · exact ⟨fun _ => nofun, fun _ => nofun⟩

theorem dmaStep_stops (channels : Vector HostChannel 8) (s : State) :
    (∀ e, dmaStep channels s = .fault e → e = .dmaRange) ∧ ∀ e, dmaStep channels s ≠ .refused e := by
  obtain ⟨-, h⟩ | ⟨-, -, h⟩ | ⟨-, -, -, h⟩ := dmaStep_cases channels s <;> rw [h]
  · exact ⟨fun _ => nofun, fun _ => nofun⟩
  · exact ⟨fun _ => nofun, fun _ => nofun⟩
  · exact dmaTransfer_stops _ s

/-! #### The step -/

/-- An agent's step faults only in `SEQ` by a track overflow and in `DMA` by the range of RAM. -/
theorem agentStep_fault {a : AgentStep} {s : State} {e : Fault} (h : agentStep a s = .fault e) :
    (e = .trackOverflow ∧ ∃ n, a = .seq n) ∨ (e = .dmaRange ∧ ∃ channels, a = .dma channels) := by
  cases a with
  | command bytes => exact absurd h ((runDecoded_stops _ _).1 e)
  | bus t => exact absurd h ((runDecoded_stops _ _).1 e)
  | seq n => exact .inl ⟨seqStep_stops.1 e h, n, rfl⟩
  | dma channels => exact .inr ⟨(dmaStep_stops channels s).1 e h, channels, rfl⟩
  | timer1 | timer2 => cases h

/-- An agent's step refuses only in `HOST`, what the decoder has turned down. -/
theorem agentStep_refused {a : AgentStep} {s : State} {e : Refusal} (h : agentStep a s = .refused e) :
    ∃ r, RefusedFor e r ∧ ((∃ bytes, a = .command bytes ∧ decode bytes = .error r) ∨
      ∃ t, a = .bus t ∧ decodeTransaction s.params.portBase t = .error r) := by
  cases a with
  | command bytes =>
    obtain ⟨r, hr, hd⟩ := (runDecoded_stops _ _).2 e h
    exact ⟨r, hr, .inl ⟨bytes, rfl, hd⟩⟩
  | bus t =>
    obtain ⟨r, hr, hd⟩ := (runDecoded_stops _ _).2 e h
    exact ⟨r, hr, .inr ⟨t, rfl, hd⟩⟩
  | seq n => exact absurd h (seqStep_stops.2 e)
  | dma channels => exact absurd h ((dmaStep_stops channels s).2 e)
  | timer1 | timer2 => cases h

/-- A step that stops has taken an entry of the inbox, whose agent stops. -/
theorem exists_agentStep_of_step {s : State} {r : Result} (h : step s = r) (hr : ∀ t, r ≠ .next t) :
    ∃ a rest, s.inbox = a :: rest ∧ agentStep a { s with inbox := rest } = r := by
  cases hin : s.inbox with
  | nil => exact absurd (h.symm.trans (step_of_inbox_nil hin)) (hr s)
  | cons a rest => exact ⟨a, rest, rfl, (step_of_inbox_cons hin).symm.trans h⟩

/-- Settles O60: the stops of each agent's step; a command of the table decodes, and completes. -/
theorem onlyTheNamedStops : Obligations.OnlyTheNamedStops := by
  intro s
  refine ⟨fun e h => ?faults, fun e h => ?refusals, fun i rest hwf hin e h => ?table⟩
  case faults =>
    obtain ⟨a, rest, hin, ha⟩ := exists_agentStep_of_step h (fun _ => nofun)
    obtain ⟨he, n, rfl⟩ | ⟨he, channels, rfl⟩ := agentStep_fault ha
    · exact .inl ⟨he, n, rest, hin⟩
    · exact .inr ⟨he, channels, rest, hin⟩
  case refusals =>
    obtain ⟨a, rest, hin, ha⟩ := exists_agentStep_of_step h (fun _ => nofun)
    obtain ⟨r, hr, ⟨bytes, rfl, hd⟩ | ⟨t, rfl, hd⟩⟩ := agentStep_refused ha
    · exact ⟨r, hr, .inl ⟨bytes, rest, hin, hd⟩⟩
    · exact ⟨r, hr, .inr ⟨t, rest, hin, hd⟩⟩
  case table =>
    obtain ⟨t, ht⟩ := exec_completes i { s with inbox := rest, reply := .none }
    rw [step_command_of_decode hin (decode_encode hwf), ht] at h
    cases h

end Sys2Proof.Machine
